-- ==== Sys2Proof/Word.lean ====
section
/-! DEFINITION. The select word of spec/30_encoding.md R49 and the condition vector inside it. -/

namespace Sys2Proof

/-- The select word `SEL[8:0]`, what the decoder reads (30_encoding.md R49; the spec's own device, D16). -/
abbrev SelWord := BitVec 9

/-- The condition vector `CV[4:0] = {z, s, b, w, p}` (30_encoding.md R49). -/
structure CV where
  /-- `CV[4]`: `pwm_counter == 0`. -/
  z : Bool
  /-- `CV[3]`: `adc_state` is Converting. -/
  s : Bool
  /-- `CV[2]`: the `ADC_BUSY` sample of this tick. -/
  b : Bool
  /-- `CV[1]`: `pwm_counter + 1 == STEPS`. -/
  w : Bool
  /-- `CV[0]`: `phase`. -/
  p : Bool
  deriving DecidableEq, Repr

end Sys2Proof
end

