-- ==== Sys2Proof/Config.lean ====
section
/-! DEFINITION. The configuration record `Cfg` (spec/00_scope.md R1), its default values (92_eei_decisions.md D24)
and the free values: what the environment answers when State.inputs lists nothing (20_memory.md R43). -/

namespace Sys2Proof

/-- `Cfg = (STEPS, SHIFT, ADC_WIDTH, N, GAMMA, INITIAL_DUTY, WDT_ENABLE)`, fixed before reset is released
(00_scope.md R1). Which values are legal is Cfg.wf, in WellFormed.lean. -/
structure Cfg where
  /-- `STEPS`, the half-period length in ticks (R2). -/
  steps : Nat
  /-- `SHIFT`, how many low bits of a raw sample are discarded (R3). -/
  shift : Nat
  /-- `ADC_WIDTH` (R3). -/
  adcWidth : Nat
  /-- `N`, the number of ROM entries (R3). -/
  n : Nat
  /-- `GAMMA`, the contents of the ROM (R5). -/
  gamma : List Nat
  /-- `INITIAL_DUTY` (R6). -/
  initialDuty : Nat
  /-- `WDT_ENABLE` (R7). -/
  wdtEnable : Bool
  deriving DecidableEq, Repr

namespace Config

/-- `GAMMA_GEN(128)` as 40_gamma_table.md R63 prints it. -/
def gammaTable128 : List Nat :=
  [1, 1, 1, 1, 1, 1, 1, 1] ++ [1, 1, 1, 1, 1, 1, 1, 1] ++
  [1, 1, 1, 2, 2, 2, 2, 2] ++ [3, 3, 3, 3, 4, 4, 4, 4] ++
  [5, 5, 6, 6, 6, 7, 7, 7] ++ [8, 8, 9, 9, 10, 10, 11, 11] ++
  [12, 12, 13, 13, 14, 15, 15, 16] ++ [17, 17, 18, 19, 19, 20, 21, 21] ++
  [22, 23, 24, 24, 25, 26, 27, 28] ++ [29, 30, 30, 31, 32, 33, 34, 35] ++
  [36, 37, 38, 39, 40, 41, 42, 44] ++ [45, 46, 47, 48, 49, 50, 52, 53] ++
  [54, 55, 57, 58, 59, 60, 62, 63] ++ [64, 66, 67, 69, 70, 71, 73, 74] ++
  [76, 77, 79, 80, 82, 83, 85, 87] ++ [88, 90, 92, 93, 95, 97, 98, 100]

/-- `GAMMA_GEN(64)` as 40_gamma_table.md R63 prints it. -/
def gammaTable64 : List Nat :=
  [1, 1, 1, 1, 1, 1, 1, 1] ++ [1, 1, 2, 2, 3, 3, 4, 4] ++
  [5, 6, 6, 7, 8, 9, 10, 11] ++ [12, 13, 14, 16, 17, 18, 20, 21] ++
  [23, 24, 26, 27, 29, 31, 33, 35] ++ [37, 39, 41, 43, 45, 48, 50, 52] ++
  [55, 58, 60, 63, 66, 68, 71, 74] ++ [77, 80, 83, 87, 90, 93, 97, 100]

/-- The defaults of 92_eei_decisions.md D24 with `N = 128`. DESIGN CHOICE, log 8: the spec calls these values
examples, never properties of the hardware. -/
def default128 : Cfg :=
  { steps := 100, shift := 1, adcWidth := 8, n := 128, gamma := gammaTable128, initialDuty := 90, wdtEnable := true }

/-- The defaults of 92_eei_decisions.md D24 with `N = 64`. -/
def default64 : Cfg :=
  { default128 with shift := 2, n := 64, gamma := gammaTable64 }

/-- FREE VALUE (log 3): does a RESET event come at this draw (70_reset_and_hazards.md R125). -/
opaque freeReset : Nat → Bool

/-- FREE VALUE (log 3): the `ADC_BUSY` answer of this draw (20_memory.md R43). -/
opaque freeBusy : Nat → Bool

/-- FREE VALUE (log 3): the `ADC_RESULT` answer of this draw, before it is brought into `[0, 2^ADC_WIDTH)`
(20_memory.md R43). -/
opaque freeRaw : Nat → Nat

end Config
end Sys2Proof
end

