-- ==== Sys2Proof/Machine/State.lean ====
section
/-! DEFINITION. The state of the block (spec/10_state.md R10 to R18), its events (43_tick_sequence.md R101), the
events of the environment (20_memory.md R35, R43), why a step is refused, and the state after reset (R23, R125). -/

namespace Sys2Proof.Machine

/-- `adc_state` (10_state.md R14). -/
inductive AdcState where
  | idle
  | converting
  deriving DecidableEq, Repr

/-- The two output lines (20_memory.md R36). -/
inductive Line where
  | a
  | b
  deriving DecidableEq, Repr

/-- The events of a tick (43_tick_sequence.md R101). -/
inductive Event where
  | wdtKick
  | adcStart
  | adcPoll (busy : Bool)
  | adcDone (raw idx duty : Nat)
  | phaseToggle (newPhase : Bool)
  | out (line : Line) (value : Bool)
  deriving DecidableEq, Repr

/-- What reaches the block from outside between two ticks: `TICK`, with what the ADC will answer if it is asked in that
tick (20_memory.md R35, R43), or `RESET` (70_reset_and_hazards.md R125). -/
inductive Input where
  | tick (busy : Bool) (raw : Nat)
  | reset
  deriving DecidableEq, Repr

/-- The slots of a tick, in order (30_encoding.md R50). `s10` is "before step 1", where every tick begins and ends
(10_state.md R17). -/
inductive Place where
  | s10
  | s11
  | s20
  | s30
  | s40
  | s50
  | s51
  deriving DecidableEq, Repr

/-- Nothing raises a fault: "The block raises no exception, trap or error of any kind" and the step function "has no
fault outcome" (60_exceptions.md R105; log 24). A type without constructors is safe: no claim can lean on one. -/
inductive Fault where
  deriving DecidableEq, Repr

/-- Why the model gives no step. -/
inductive Refusal where
  /-- Raised by exec's arm of an instruction that has no meaning yet. Safe: the run stops. -/
  | notModelled (mnemonic : String)
  /-- Raised by step when the configuration is not well formed (00_scope.md R8, 93_implementation_defined.md U5).
  Safe: the spec gives such a configuration no step. -/
  | illFormedConfig
  /-- Raised by step, except for RESET, when `pwm_counter >= STEPS` or `pwm_duty` is outside `[1, 100]`
  (30_encoding.md R52 (a), (b)). Safe: no run reaches such a state, and the spec gives it no step. -/
  | registerOutOfRange
  /-- Raised by `ADC_DONE` when the sample it reads is not below `2^ADC_WIDTH` (30_encoding.md R52 (d)). Safe: the port
  contract excludes it. -/
  | rawOutOfRange
  /-- Raised by a ROM read at an index with no entry (20_memory.md R33, 93_implementation_defined.md U1). Safe: it cannot
  happen under a well-formed configuration from `ADC_DONE`. -/
  | romIndexOutOfRange
  deriving DecidableEq, Repr

/-- The state: the six registers, the configuration, the transient values of the tick in progress, and the model's own
fields. -/
structure State where
  /-- The configuration: a parameter, which no operation writes (00_scope.md R1, R24; log 1). -/
  cfg : Cfg
  /-- `pwm_counter` (10_state.md R11). -/
  pwmCounter : Nat
  /-- `phase`: `false` selects A, `true` selects B (R12; log 7). -/
  phase : Bool
  /-- `pwm_duty` (R13). -/
  pwmDuty : Nat
  /-- `adc_state` (R14). -/
  adcState : AdcState
  /-- `out_a` (R15). -/
  outA : Bool
  /-- `out_b` (R15). -/
  outB : Bool
  /-- The slot that runs next: the position inside the tick (R17; log 2). -/
  place : Place
  /-- A call of `GAMMA_LOOKUP` on its own is due (40_gamma_table.md R60; log 11). -/
  lookupCall : Bool
  /-- What `ADC_BUSY` reads in this tick (R18; 20_memory.md R43). -/
  busy : Bool
  /-- What `ADC_RESULT` reads in this tick (R18; 20_memory.md R43). -/
  raw : Nat
  /-- The operand of `GAMMA_LOOKUP` (R18; 40_gamma_table.md R60). -/
  idx : Nat
  /-- What `GAMMA_LOOKUP` returned (40_gamma_table.md R60; log 11). -/
  lookup : Nat
  /-- What `PWM_CMP` computed (R18). -/
  active : Bool
  /-- The event list of the tick, oldest first (43_tick_sequence.md R101; log 16). -/
  events : List Event
  /-- What the environment will send, oldest first (log 3). -/
  inputs : List Input
  /-- How many inputs were drawn freely, State.inputs being empty (log 3). -/
  draws : Nat
  deriving DecidableEq, Repr

/-- The state right after `RESET` under the configuration `c` (10_state.md R23, 70_reset_and_hazards.md R125), before
the first tick (R17), nothing being listed for the environment. The values of `phase`, `adc_state`, `out_a` and `out_b`
are the spec's decisions D2 to D4 (log 4, 5, 6); those of the model's own fields are DESIGN CHOICE (log 25). -/
def State.resetWith (c : Cfg) : State :=
  { cfg := c
    pwmCounter := 0
    phase := false
    pwmDuty := c.initialDuty
    adcState := .idle
    outA := false
    outB := false
    place := .s10
    lookupCall := false
    busy := false
    raw := 0
    idx := 0
    lookup := 0
    active := false
    events := []
    inputs := []
    draws := 0 }

/-- The machine right after reset, with the defaults of 92_eei_decisions.md D24 (log 8). -/
def State.reset : State := State.resetWith Config.default128

end Sys2Proof.Machine
end

