-- ==== Sys2Proof/Syntax.lean ====
section
/-! DEFINITION. The micro-operations: one constructor per row of spec/opcode_table.json (30_encoding.md R50). -/

namespace Sys2Proof

/-- The micro-operations, in the order they can run in a tick, then the called function and the event. The table
gives no row an operand field; an operand a rule names is supplied by the machine. -/
inductive Instr where
  /-- `WDT_KICK`, slot 1.0 (43_tick_sequence.md R96). -/
  | wdtKick
  /-- `ADC_START`, slot 1.1 (41_sampling_state_machine.md R70). -/
  | adcStart
  /-- `ADC_IDLE`, slot 2.0 (R71). -/
  | adcIdle
  /-- `ADC_WAIT`, slot 2.0 (R72). -/
  | adcWait
  /-- `ADC_DONE`, slot 2.0 (R73). -/
  | adcDone
  /-- `CNT_INC`, slot 3.0 (42_pwm_phase_driver.md R80). -/
  | cntInc
  /-- `CNT_WRAP`, slot 3.0 (R81). -/
  | cntWrap
  /-- `PWM_CMP`, slot 4.0 (R82). -/
  | pwmCmp
  /-- `OUT_BREAK_B`, slot 5.0 (R83). -/
  | outBreakB
  /-- `OUT_BREAK_A`, slot 5.0 (R84). -/
  | outBreakA
  /-- `OUT_MAKE_A`, slot 5.1 (R85). -/
  | outMakeA
  /-- `OUT_MAKE_B`, slot 5.1 (R86). -/
  | outMakeB
  /-- `GAMMA_LOOKUP`, called by `ADC_DONE` (40_gamma_table.md R60). -/
  | gammaLookup
  /-- `RESET`, an event between ticks (70_reset_and_hazards.md R125). -/
  | reset
  deriving DecidableEq, Repr

namespace Instr

/-- Every micro-operation, in table order. -/
def all : List Instr :=
  [wdtKick, adcStart, adcIdle, adcWait, adcDone, cntInc, cntWrap, pwmCmp,
   outBreakB, outBreakA, outMakeA, outMakeB, gammaLookup, reset]

end Instr
end Sys2Proof
end

