-- ==== Sys2Proof/WellFormed.lean ====
section
/-! DEFINITION. Which configurations are well formed (spec/00_scope.md R2 to R6, R8), one check per rule.
An instruction has no operand field, so every term of Instr is well formed. -/

namespace Sys2Proof
namespace Cfg

/-- R2: `STEPS > 0`. -/
def stepsOk (c : Cfg) : Bool := decide (0 < c.steps)

/-- R3: `ADC_WIDTH >= 1`, `SHIFT <= ADC_WIDTH`, `N = 2^(ADC_WIDTH - SHIFT)`. -/
def shapeOk (c : Cfg) : Bool :=
  decide (1 ≤ c.adcWidth) && decide (c.shift ≤ c.adcWidth) && decide (c.n = 2 ^ (c.adcWidth - c.shift))

/-- R4: the static index bound `((2^ADC_WIDTH - 1) >> SHIFT) < N`. -/
def indexOk (c : Cfg) : Bool := decide ((2 ^ c.adcWidth - 1) >>> c.shift < c.n)

/-- No entry is greater than the next one. -/
def nonDecreasing : List Nat → Bool
  | [] => true
  | [_] => true
  | a :: b :: rest => decide (a ≤ b) && nonDecreasing (b :: rest)

/-- R5: exactly `N` entries, each in `[1, 100]`, non-decreasing (90_conflicts.md C1), the last one 100. -/
def gammaOk (c : Cfg) : Bool :=
  decide (c.gamma.length = c.n) && c.gamma.all (fun d => decide (1 ≤ d) && decide (d ≤ 100)) &&
    nonDecreasing c.gamma && decide (c.gamma.getLast? = some 100)

/-- R6: `1 <= INITIAL_DUTY <= 100`. -/
def dutyOk (c : Cfg) : Bool := decide (1 ≤ c.initialDuty) && decide (c.initialDuty ≤ 100)

/-- R8: well formed when R2, R3, R4, R5 and R6 all hold. -/
def wf (c : Cfg) : Bool := c.stepsOk && c.shapeOk && c.indexOk && c.gammaOk && c.dutyOk

end Cfg
end Sys2Proof
end

