-- ==== Sys2Proof/Machine/Operands.lean ====
section
/-! DEFINITION. The derived widths (spec/00_scope.md §4), the one computed operand, the ROM index (30_encoding.md
R48 (a)), and the ranges of the values that an operation takes (R47, R52). -/

namespace Sys2Proof.Machine

/-- The first width from `w` on, at most `fuel` further, whose power of two reaches `steps`. -/
def widthFrom (steps : Nat) : Nat → Nat → Nat
  | 0, w => w
  | fuel + 1, w => if steps ≤ 2 ^ w then w else widthFrom steps fuel (w + 1)

/-- `CNT_W`: least `w >= 1` with `2^w >= STEPS` (00_scope.md §4). -/
def cntW (c : Cfg) : Nat := widthFrom c.steps c.steps 1

/-- `DUTY_W = 7` (00_scope.md §4). -/
def dutyW : Nat := 7

/-- `IDX_W = ADC_WIDTH - SHIFT` (00_scope.md §4). -/
def idxW (c : Cfg) : Nat := c.adcWidth - c.shift

/-- `CMP_W = max(CNT_W, DUTY_W)` (00_scope.md §4). -/
def cmpW (c : Cfg) : Nat := max (cntW c) dutyW

/-- `idx = raw >> SHIFT`: a logical shift, the low bits discarded, not rounded (30_encoding.md R48 (a)). -/
def romIndex (c : Cfg) (raw : Nat) : Nat := raw >>> c.shift

/-- The same operand as the slice `raw[ADC_WIDTH-1 : SHIFT]` of a bit vector (30_encoding.md R48 (a)). -/
def romIndexSlice (c : Cfg) (raw : BitVec c.adcWidth) : BitVec (idxW c) := raw.extractLsb' c.shift (idxW c)

/-- `0 <= raw < 2^ADC_WIDTH` (20_memory.md R38, R43). -/
def rawInRange (c : Cfg) (raw : Nat) : Bool := decide (raw < 2 ^ c.adcWidth)

/-- The registers hold values that can occur: `pwm_counter` in `[0, STEPS)`, `pwm_duty` in `[1, 100]`
(30_encoding.md R52 (a), (b)). -/
def State.inRange (s : State) : Bool :=
  decide (s.pwmCounter < s.cfg.steps) && decide (1 ≤ s.pwmDuty) && decide (s.pwmDuty ≤ 100)

end Sys2Proof.Machine
end

