-- ==== Sys2Proof/Machine/Flags.lean ====
section
/-! DEFINITION. The conditions the guards test (spec/30_encoding.md R49) and the compare of step 4 (R48 (b)). -/

namespace Sys2Proof.Machine

/-- `adc_state` as a bit: `Idle = 0`, `Converting = 1` (30_encoding.md R46). -/
def AdcState.bit : AdcState → Bool
  | .idle => false
  | .converting => true

/-- `z`: `pwm_counter == 0` (30_encoding.md R49). -/
def zFlag (s : State) : Bool := s.pwmCounter == 0

/-- `w`: `pwm_counter + 1 == STEPS` (30_encoding.md R49). -/
def wFlag (s : State) : Bool := s.pwmCounter + 1 == s.cfg.steps

/-- The condition vector. Each row tests only bits that are sampled in its own step (30_encoding.md R49), so all five are
computed from the state as the slot begins (log 22). -/
def cvOf (s : State) : CV :=
  { z := zFlag s
    s := s.adcState.bit
    b := s.busy
    w := wFlag s
    p := s.phase }

/-- `active = pwm_counter < pwm_duty`, unsigned and strict (42_pwm_phase_driver.md R82). -/
def pwmActive (counter duty : Nat) : Bool := decide (counter < duty)

/-- The same compare as the hardware does it, both operands zero-extended to `CMP_W` bits (30_encoding.md R48 (b)). -/
def compareAtWidth (c : Cfg) (counter : BitVec (cntW c)) (duty : BitVec 7) : Bool :=
  (counter.zeroExtend (cmpW c)).ult (duty.zeroExtend (cmpW c))

end Sys2Proof.Machine
end

