-- ==== Sys2Proof/Machine/Ops.lean ====
section
/-! DEFINITION. The operations the meanings share: events, ports, the ROM, and the reset of the registers
(spec/00_scope.md §5, 20_memory.md R32, R36). There is no exception to take and none to return from
(60_exceptions.md R105, R112, R113): RESET is the only entry. -/

namespace Sys2Proof.Machine

/-- Go on from a next state, and stop where the first operation stopped. -/
def andThen (o : Host.Outcome State Fault Refusal) (f : State → State) : Host.Outcome State Fault Refusal :=
  match o with
  | .next t => .next (f t)
  | .fault r => .fault r
  | .refused r => .refused r

/-- `emit e`: append to the tick's event list (00_scope.md §5). -/
def emit (s : State) (e : Event) : State := { s with events := s.events ++ [e] }

/-- `PortOut.OUT_A(v)` and `PortOut.OUT_B(v)`: drive the line and record it in its latch (00_scope.md §5). Writing one
line never changes the other (20_memory.md R36), and the write has taken effect at once (R41, D14; log 17). -/
def portOut (s : State) (l : Line) (v : Bool) : State :=
  match l with
  | .a => { s with outA := v }
  | .b => { s with outB := v }

/-- `set_output_a(v)` or `set_output_b(v)` inside a tick: the port write with its event (42_pwm_phase_driver.md R83 to
R86). -/
def writeLine (s : State) (l : Line) (v : Bool) : State := emit (portOut s l v) (.out l v)

/-- `PortIn.ADC_RESULT()` (20_memory.md R37, R38): the sample, if it keeps the port's contract; otherwise none
(30_encoding.md R52 (d)). -/
def readResult (s : State) : Option Nat := if rawInRange s.cfg s.raw then some s.raw else none

/-- `RomRead(i)`: `GAMMA[i]` for `0 <= i < N` (20_memory.md R32); "it never returns a value for an out-of-range index"
(R33). -/
def romRead (c : Cfg) (i : Nat) : Option Nat := if i < c.n then c.gamma[i]? else none

/-- `GAMMA_LOOKUP(idx)`, with what it returns in the transient State.lookup (40_gamma_table.md R60). -/
def callLookup (s : State) : Option State := (romRead s.cfg s.idx).map (fun d => { s with lookup := d })

/-- The six registers to their reset values, `Cfg` untouched (70_reset_and_hazards.md R125). The two port writes belong to
no tick and leave no event (43_tick_sequence.md R101; log 15). -/
def resetRegisters (s : State) : State :=
  portOut (portOut
    { s with pwmCounter := 0, phase := false, pwmDuty := s.cfg.initialDuty, adcState := .idle } .a false) .b false

end Sys2Proof.Machine
end

