-- ==== Sys2Proof/Machine/Gamma.lean ====
section
/-! DEFINITION. GammaTable: `GAMMA_LOOKUP` (spec/40_gamma_table.md R60) and the generation of the default table in the
integer form of R62. -/

namespace Sys2Proof.Machine

/-- `GAMMA_LOOKUP(idx)` on its own: the value returned stands in State.lookup; no register is written (R60; log 11). -/
def execGammaLookup (s : State) : Host.Outcome State Fault Refusal :=
  match callLookup s with
  | some t => .next t
  | none => .refused .romIndexOutOfRange

/-- R62's test on a candidate `k`: `k = 0` or `(2k - 1)^5 * (N-1)^11 <= 32 * 10^10 * i^11`. -/
def gammaReaches (n i k : Nat) : Bool :=
  k == 0 || decide ((2 * k - 1) ^ 5 * (n - 1) ^ 11 ≤ 32 * 10 ^ 10 * i ^ 11)

/-- The largest candidate up to a bound that passes the test. -/
def largestUpTo (p : Nat → Bool) : Nat → Nat
  | 0 => 0
  | k + 1 => if p (k + 1) then k + 1 else largestUpTo p k

/-- R62's `r(i)`. The search starts at 100, since `v(i) <= 100` (R61; log 20). -/
def gammaRound (n i : Nat) : Nat := largestUpTo (gammaReaches n i) 100

/-- R61: floor at 1, ceiling at 100. -/
def gammaEntry (n i : Nat) : Nat := min 100 (max 1 (gammaRound n i))

/-- `GAMMA_GEN(N)`, defined for `N >= 2` only (R61, D23). -/
def gammaGen (n : Nat) : Option (List Nat) :=
  if n < 2 then none else some ((List.range n).map (gammaEntry n))

end Sys2Proof.Machine
end

