-- ==== Sys2Proof/Machine/Pwm.lean ====
section
/-! DEFINITION. PwmPhaseDriver: the counter, the compare and the break-before-make outputs
(spec/42_pwm_phase_driver.md R80 to R86). When each runs is its guard, in Fetch.lean (log 12). -/

namespace Sys2Proof.Machine

/-- `CNT_INC` (R80). -/
def execCntInc (s : State) : Host.Outcome State Fault Refusal :=
  .next { s with pwmCounter := s.pwmCounter + 1 }

/-- `CNT_WRAP` (R81): the event carries the new value of `phase`. -/
def execCntWrap (s : State) : Host.Outcome State Fault Refusal :=
  .next (emit { s with pwmCounter := 0, phase := !s.phase } (.phaseToggle (!s.phase)))

/-- `PWM_CMP` (R82): the compare of the counter from step 3 with the duty from step 2. -/
def execPwmCmp (s : State) : Host.Outcome State Fault Refusal :=
  .next { s with active := pwmActive s.pwmCounter s.pwmDuty }

/-- `OUT_BREAK_B` (R83). -/
def execOutBreakB (s : State) : Host.Outcome State Fault Refusal :=
  .next (writeLine s .b false)

/-- `OUT_BREAK_A` (R84). -/
def execOutBreakA (s : State) : Host.Outcome State Fault Refusal :=
  .next (writeLine s .a false)

/-- `OUT_MAKE_A` (R85). -/
def execOutMakeA (s : State) : Host.Outcome State Fault Refusal :=
  .next (writeLine s .a s.active)

/-- `OUT_MAKE_B` (R86). -/
def execOutMakeB (s : State) : Host.Outcome State Fault Refusal :=
  .next (writeLine s .b s.active)

end Sys2Proof.Machine
end

