-- ==== Sys2Proof/Machine/Sampling.lean ====
section
/-! DEFINITION. SamplingStateMachine: `ADC_START`, `ADC_IDLE`, `ADC_WAIT`, `ADC_DONE` (spec/41_sampling_state_machine.md
R70 to R73). When each runs is its guard, in Fetch.lean (log 12). -/

namespace Sys2Proof.Machine

/-- `ADC_START` (R70): the start request, and the machine is Converting. -/
def execAdcStart (s : State) : Host.Outcome State Fault Refusal :=
  .next (emit { s with adcState := .converting } .adcStart)

/-- `ADC_IDLE` (R71): nothing, and no port is read. -/
def execAdcIdle (s : State) : Host.Outcome State Fault Refusal :=
  .next s

/-- `ADC_WAIT` (R72): one poll that answers busy; the machine stays Converting. -/
def execAdcWait (s : State) : Host.Outcome State Fault Refusal :=
  .next (emit s (.adcPoll true))

/-- `ADC_DONE` (R73): one poll that answers complete, the sample, the lookup, the new duty, and the machine is Idle. -/
def execAdcDone (s : State) : Host.Outcome State Fault Refusal :=
  match readResult s with
  | none => .refused .rawOutOfRange
  | some raw =>
    match callLookup { emit s (.adcPoll false) with idx := romIndex s.cfg raw } with
    | none => .refused .romIndexOutOfRange
    | some t => .next (emit { t with pwmDuty := t.lookup, adcState := .idle } (.adcDone raw t.idx t.lookup))

end Sys2Proof.Machine
end

