-- ==== Sys2Proof/Machine/System.lean ====
section
/-! DEFINITION. `WDT_KICK` (spec/43_tick_sequence.md R96) and `RESET` (70_reset_and_hazards.md R125). -/

namespace Sys2Proof.Machine

/-- `WDT_KICK` (R96): the watchdog reset request; no register is written. -/
def execWdtKick (s : State) : Host.Outcome State Fault Refusal :=
  .next (emit s .wdtKick)

/-- `RESET` (R125): all six registers. -/
def execReset (s : State) : Host.Outcome State Fault Refusal :=
  .next (resetRegisters s)

end Sys2Proof.Machine
end

