-- ==== Sys2Proof/Machine/Dispatch.lean ====
section
/-! DEFINITION. One arm per micro-operation of spec/30_encoding.md R50. -/

namespace Sys2Proof.Machine

def exec (i : Instr) (s : State) : Host.Outcome State Fault Refusal :=
  match i with
  | .wdtKick => Sys2Proof.Machine.execWdtKick s
  | .adcStart => Sys2Proof.Machine.execAdcStart s
  | .adcIdle => Sys2Proof.Machine.execAdcIdle s
  | .adcWait => Sys2Proof.Machine.execAdcWait s
  | .adcDone => Sys2Proof.Machine.execAdcDone s
  | .cntInc => Sys2Proof.Machine.execCntInc s
  | .cntWrap => Sys2Proof.Machine.execCntWrap s
  | .pwmCmp => Sys2Proof.Machine.execPwmCmp s
  | .outBreakB => Sys2Proof.Machine.execOutBreakB s
  | .outBreakA => Sys2Proof.Machine.execOutBreakA s
  | .outMakeA => Sys2Proof.Machine.execOutMakeA s
  | .outMakeB => Sys2Proof.Machine.execOutMakeB s
  | .gammaLookup => Sys2Proof.Machine.execGammaLookup s
  | .reset => Sys2Proof.Machine.execReset s

end Sys2Proof.Machine
end

