-- ==== Sys2Proof/Decode.lean ====
section
/-! DEFINITION. The decoder of the select word, total over all 512 words and rejecting by name, and the encoder
(spec/30_encoding.md R49 to R51). -/

namespace Sys2Proof

/-- Why a select word selects no operation (30_encoding.md R51). -/
inductive DecodeError where
  /-- Step code 6, unused (R49). -/
  | unusedStepCode
  /-- Slot 1 of a step that has no slot 1: only steps 1 and 5 have one (R49). -/
  | noSuchSlot
  /-- A slot of step 1 whose guard does not hold: the slot is empty (R51). -/
  | emptySlot
  deriving DecidableEq, Repr

/-- What the decoder answers. -/
inductive Decoded where
  | op (i : Instr)
  | rejected (why : DecodeError)
  deriving DecidableEq, Repr

/-- The condition vector as five bits, `z` highest (30_encoding.md R49). -/
def CV.bits (cv : CV) : BitVec 5 :=
  BitVec.ofBool cv.z ++ BitVec.ofBool cv.s ++ BitVec.ofBool cv.b ++ BitVec.ofBool cv.w ++ BitVec.ofBool cv.p

/-- `SEL[8:0] = {step[2:0], slot, CV[4:0]}` (30_encoding.md R49). -/
def selWord (stepCode : BitVec 3) (slot : Bool) (cv : CV) : SelWord :=
  stepCode ++ BitVec.ofBool slot ++ cv.bits

/-- One row of the table of 30_encoding.md R50. -/
structure OpcodeRow where
  instr : Instr
  pattern : SelWord
  mask : SelWord
  deriving DecidableEq, Repr

/-- 30_encoding.md R50, columns match and mask. -/
def opcodeRows : List OpcodeRow :=
  [⟨.wdtKick, 0x050, 0x1F0⟩, ⟨.adcStart, 0x070, 0x1F8⟩, ⟨.adcIdle, 0x080, 0x1E8⟩, ⟨.adcWait, 0x08C, 0x1EC⟩,
   ⟨.adcDone, 0x088, 0x1EC⟩, ⟨.cntInc, 0x0C0, 0x1E2⟩, ⟨.cntWrap, 0x0C2, 0x1E2⟩, ⟨.pwmCmp, 0x100, 0x1E0⟩] ++
  [⟨.outBreakB, 0x140, 0x1E1⟩, ⟨.outBreakA, 0x141, 0x1E1⟩, ⟨.outMakeA, 0x160, 0x1E1⟩, ⟨.outMakeB, 0x161, 0x1E1⟩,
   ⟨.gammaLookup, 0x1C0, 0x1E0⟩, ⟨.reset, 0x000, 0x1E0⟩]

/-- `(SEL & mask) == match` (30_encoding.md R49). -/
def OpcodeRow.selects (r : OpcodeRow) (w : SelWord) : Bool := (w &&& r.mask) == r.pattern

/-- The name of the rejection of a word that no row selects. -/
def rejectionOf (w : SelWord) : DecodeError :=
  if w.extractLsb' 6 3 = 6 then .unusedStepCode
  else if w.getLsbD 5 && !(w.extractLsb' 6 3 == 1 || w.extractLsb' 6 3 == 5) then .noSuchSlot
  else .emptySlot

/-- The decoder: "A total decoder over all 512 values of SEL gives no operation for every word no row matches"
(30_encoding.md R51). -/
def decodeSel (w : SelWord) : Decoded :=
  match opcodeRows.find? (fun r => r.selects w) with
  | some r => .op r.instr
  | none => .rejected (rejectionOf w)

/-- The encoder, from the columns step.slot and guard of 30_encoding.md R50; a bit the guard ignores is 0 (R55). -/
def encode : Instr → SelWord
  | .wdtKick     => selWord 1 false { z := true,  s := false, b := false, w := false, p := false }
  | .adcStart    => selWord 1 true  { z := true,  s := false, b := false, w := false, p := false }
  | .adcIdle     => selWord 2 false { z := false, s := false, b := false, w := false, p := false }
  | .adcWait     => selWord 2 false { z := false, s := true,  b := true,  w := false, p := false }
  | .adcDone     => selWord 2 false { z := false, s := true,  b := false, w := false, p := false }
  | .cntInc      => selWord 3 false { z := false, s := false, b := false, w := false, p := false }
  | .cntWrap     => selWord 3 false { z := false, s := false, b := false, w := true,  p := false }
  | .pwmCmp      => selWord 4 false { z := false, s := false, b := false, w := false, p := false }
  | .outBreakB   => selWord 5 false { z := false, s := false, b := false, w := false, p := false }
  | .outBreakA   => selWord 5 false { z := false, s := false, b := false, w := false, p := true }
  | .outMakeA    => selWord 5 true  { z := false, s := false, b := false, w := false, p := false }
  | .outMakeB    => selWord 5 true  { z := false, s := false, b := false, w := false, p := true }
  | .gammaLookup => selWord 7 false { z := false, s := false, b := false, w := false, p := false }
  | .reset       => selWord 0 false { z := false, s := false, b := false, w := false, p := false }

/-- The instruction the decoder reads from the bits `w` numbered as spec/opcode_table.json numbers them. A select word
has 9 bits (30_encoding.md R49), so a bit above bit 8 that is not 0 is no select word (log 26). -/
def decodeTableWord (nbits w : Nat) : Option Instr :=
  if w % 2 ^ nbits < 512 then
    match decodeSel (BitVec.ofNat 9 (w % 2 ^ nbits)) with
    | .op i => some i
    | .rejected _ => none
  else none

end Sys2Proof
end

