-- ==== Sys2Proof/Machine/Fetch.lean ====
section
/-! DEFINITION. What stands for fetching an instruction: the event of the environment, the select word of the slot
that runs next, the operation it selects, and where the tick goes on (spec/30_encoding.md R49 to R51,
43_tick_sequence.md R95). -/

namespace Sys2Proof.Machine

/-- What the environment sends next: the head of State.inputs, or a free draw when nothing is listed, the sample brought
into the range of the port (20_memory.md R43; log 3). -/
def nextInput (s : State) : Input :=
  match s.inputs with
  | e :: _ => e
  | [] =>
    if Config.freeReset s.draws then .reset
    else .tick (Config.freeBusy s.draws) (Config.freeRaw s.draws % 2 ^ s.cfg.adcWidth)

/-- The state with that input taken off. -/
def dropInput (s : State) : State :=
  match s.inputs with
  | _ :: rest => { s with inputs := rest }
  | [] => { s with draws := s.draws + 1 }

/-- Between two ticks: the slot is 1.0 and no call is in progress (10_state.md R17). -/
def atBoundary (s : State) : Bool := s.place == .s10 && !s.lookupCall

/-- `RESET` has come. It is taken only between ticks (60_exceptions.md R111, D21; log 15). -/
def resetDue (s : State) : Bool := atBoundary s && nextInput s == .reset

/-- Step code and slot bit of a slot (30_encoding.md R50). -/
def Place.code : Place → BitVec 3 × Bool
  | .s10 => (1, false)
  | .s11 => (1, true)
  | .s20 => (2, false)
  | .s30 => (3, false)
  | .s40 => (4, false)
  | .s50 => (5, false)
  | .s51 => (5, true)

/-- The slot after this one (30_encoding.md R50: 1.0, 1.1, 2.0, 3.0, 4.0, 5.0, 5.1, and the next tick). -/
def Place.next : Place → Place
  | .s10 => .s11
  | .s11 => .s20
  | .s20 => .s30
  | .s30 => .s40
  | .s40 => .s50
  | .s50 => .s51
  | .s51 => .s10

/-- The step code and slot bit of what runs next; step code 7 is the callable function and step code 0 is `RESET`
(30_encoding.md R49). -/
def selCode (s : State) : BitVec 3 × Bool :=
  if s.lookupCall then (7, false)
  else if resetDue s then (0, false)
  else s.place.code

/-- The select word of what runs next (30_encoding.md R49). -/
def selOf (s : State) : SelWord := selWord (selCode s).1 (selCode s).2 (cvOf s)

/-- The extra condition of a row: `WDT_KICK` needs `WDT_ENABLE` (30_encoding.md R50). -/
def enabled (c : Cfg) : Instr → Bool
  | .wdtKick => c.wdtEnable
  | .adcStart | .adcIdle | .adcWait | .adcDone | .cntInc | .cntWrap | .pwmCmp | .outBreakB | .outBreakA | .outMakeA
  | .outMakeB | .gammaLookup | .reset => true

/-- The operation that runs next, none where the slot is empty (30_encoding.md R51). -/
def selected (s : State) : Option Instr :=
  match decodeSel (selOf s) with
  | .op i => if enabled s.cfg i then some i else none
  | .rejected _ => none

/-- The transient values and the event list as they are outside any tick: "None survives the tick" (10_state.md R18). -/
def clearTransients (s : State) : State :=
  { s with busy := false, raw := 0, idx := 0, lookup := 0, active := false }

/-- Between two ticks the next input is taken: a tick begins with its two ADC answers and an empty event list, or the
reset is taken. Inside a tick nothing comes in (43_tick_sequence.md R98). -/
def takeInput (s : State) : State :=
  if atBoundary s then
    match nextInput s with
    | .tick b r => { dropInput s with busy := b, raw := r, events := [] }
    | .reset => { clearTransients (dropInput s) with events := [] }
  else s

/-- Where the machine goes after a slot: to the next slot, and at the end of a tick the transients are gone
(10_state.md R18). After `RESET` it stands before step 1; after a call of `GAMMA_LOOKUP` it stands where it stood. -/
def advance (ran : Option Instr) (s : State) : State :=
  match ran with
  | some .reset => s
  | some .gammaLookup => { s with lookupCall := false }
  | _ => if s.place = .s51 then { clearTransients s with place := .s10 } else { s with place := s.place.next }

/-- Put the counter where `z` reads as asked, moving it only if it does not. -/
def withZ (s : State) (z : Bool) : State :=
  if zFlag s = z then s else { s with pwmCounter := if z then 0 else 1 }

/-- Put the counter where `w` reads as asked, moving it only if it does not. With `STEPS = 1` it always reads 1. -/
def withW (s : State) (w : Bool) : State :=
  if wFlag s = w then s else { s with pwmCounter := if w then s.cfg.steps - 1 else 0 }

/-- Put `adc_state` where `s` reads as asked. -/
def withS (s : State) (b : Bool) : State := { s with adcState := if b then .converting else .idle }

/-- Put the machine where its select word has the step code, the slot and the tested condition bits of `w` (log 23). A
word with a step code and slot that the tick does not have leaves the state as it is. -/
def selectNext (s : State) (w : SelWord) : State :=
  match w.extractLsb' 6 3, w.getLsbD 5 with
  | 0, false => { s with place := .s10, lookupCall := false, inputs := .reset :: s.inputs }
  | 1, false =>
    withZ { s with place := .s10, lookupCall := false, inputs := .tick false 0 :: s.inputs,
                   cfg := { s.cfg with wdtEnable := s.cfg.wdtEnable || w.getLsbD 4 } } (w.getLsbD 4)
  | 1, true => withS (withZ { s with place := .s11, lookupCall := false } (w.getLsbD 4)) (w.getLsbD 3)
  | 2, false => withS { s with place := .s20, lookupCall := false, busy := w.getLsbD 2 } (w.getLsbD 3)
  | 3, false => withW { s with place := .s30, lookupCall := false } (w.getLsbD 1)
  | 4, false => { s with place := .s40, lookupCall := false }
  | 5, false => { s with place := .s50, lookupCall := false, phase := w.getLsbD 0 }
  | 5, true => { s with place := .s51, lookupCall := false, phase := w.getLsbD 0 }
  | 7, false => { s with lookupCall := true }
  | _, _ => s

end Sys2Proof.Machine
end

