-- ==== Sys2Proof/Machine/Step.lean ====
section
/-! DEFINITION. One step: one slot of the tick, or `RESET` between two ticks (spec/43_tick_sequence.md R95, R98;
log 2). -/

namespace Sys2Proof.Machine

/-- One slot: the operation that the select word selects runs, or the slot is empty (30_encoding.md R51); then the next
slot comes. An ill-formed configuration has no step (00_scope.md R8), and register values that cannot occur have none
but `RESET`, which reads no register (30_encoding.md R52, 70_reset_and_hazards.md R125; log 10). -/
def step (s : State) : Host.Outcome State Fault Refusal :=
  if s.cfg.wf then
    if s.inRange || selected s == some .reset then
      match selected s with
      | some i => andThen (exec i (takeInput s)) (advance (some i))
      | none => .next (advance none (takeInput s))
    else .refused .registerOutOfRange
  else .refused .illFormedConfig

/-- `s` with the machine put where it selects the word `w`, its bits numbered as spec/opcode_table.json numbers them, so
that the next step runs that operation (log 23). -/
def State.withFetchWord (s : State) (nbits w : Nat) : State := selectNext s (BitVec.ofNat 9 (w % 2 ^ nbits))

end Sys2Proof.Machine
end

