-- ==== Sys2Proof/Machine/Tick.lean ====
section
/-! DEFINITION. `TICK` (spec/43_tick_sequence.md R95, R100) and sequences of ticks (R99). -/

namespace Sys2Proof.Machine

/-- `k` steps, one after another. -/
def steps : Nat → State → Host.Outcome State Fault Refusal
  | 0, s => .next s
  | k + 1, s =>
    match step s with
    | .next t => steps k t
    | .fault r => .fault r
    | .refused r => .refused r

/-- `TICK(busy, raw)`: the seven slots of one tick, the environment's next event being this tick (43_tick_sequence.md
R95, R100). What follows in State.inputs stays for later. -/
def tick (s : State) (busy : Bool) (raw : Nat) : Host.Outcome State Fault Refusal :=
  steps 7 { s with inputs := .tick busy raw :: s.inputs }

/-- Ticks one after another, each with its ADC answers: the states at the tick boundaries, the first one left out
(43_tick_sequence.md R99). -/
def ticks : List (Bool × Nat) → State → Host.Outcome (List State) Fault Refusal
  | [], _ => .next []
  | (busy, raw) :: rest, s =>
    match tick s busy raw with
    | .next t =>
      match ticks rest t with
      | .next ts => .next (t :: ts)
      | .fault r => .fault r
      | .refused r => .refused r
    | .fault r => .fault r
    | .refused r => .refused r

/-- The events of a run: its ticks' lists, one after another (43_tick_sequence.md R101). -/
def eventsOf (ts : List State) : List Event := (ts.map (·.events)).flatten

/-- Port activity, and not the internal `PhaseToggle` (43_tick_sequence.md R101). -/
def Event.isPort : Event → Bool
  | .phaseToggle _ => false
  | .wdtKick | .adcStart | .adcPoll _ | .adcDone _ _ _ | .out _ _ => true

/-- What can be observed of a run (43_tick_sequence.md R101). -/
def observable (ts : List State) : List Event := (eventsOf ts).filter Event.isPort

end Sys2Proof.Machine
end

