-- ==== Sys2Proof/Safety.lean ====
section
/-! DEFINITION. What counts as a safe state (spec/10_state.md R21, 42_pwm_phase_driver.md R87), the invariant that every
step keeps, and the platform's figures and duties that the spec states as a relation (70_reset_and_hazards.md R127). -/

namespace Sys2Proof.Machine

/-- R87: not both lines active. -/
def State.exclusive (s : State) : Prop := ¬ (s.outA = true ∧ s.outB = true)

/-- R21: what holds in every reachable state (`adc_state` has no third value by its type). -/
structure State.Safe (s : State) : Prop where
  configured : s.cfg.wf = true
  counter_lt : s.pwmCounter < s.cfg.steps
  duty_pos : 1 ≤ s.pwmDuty
  duty_le : s.pwmDuty ≤ 100
  exclusive : s.exclusive

/-- Every sample the environment will answer keeps the port's contract (20_memory.md R43). -/
def Input.inContract (c : Cfg) : Input → Prop
  | .tick _ raw => raw < 2 ^ c.adcWidth
  | .reset => True

/-- The invariant: a safe state, in which the line that is not selected is already inactive when slot 5.1 makes the
selected one (R87), and the operands that wait for an operation are in range (20_memory.md R33, R43). -/
structure State.Inv (s : State) : Prop where
  safe : s.Safe
  broken : s.place = .s51 → (if s.phase then s.outA else s.outB) = false
  raw_lt : s.raw < 2 ^ s.cfg.adcWidth
  idx_lt : s.idx < s.cfg.n
  inputs_ok : ∀ e ∈ s.inputs, e.inContract s.cfg

/-- The slot `p` of a tick runs next. -/
def State.At (p : Place) (s : State) : Prop := s.place = p ∧ s.lookupCall = false

/-- A tick can begin: the configuration is well formed (00_scope.md R8), the registers hold values that can occur
(30_encoding.md R52), and the machine stands between two ticks (10_state.md R17). -/
structure State.Ready (s : State) : Prop where
  configured : s.cfg.wf = true
  in_range : s.inRange = true
  boundary : s.At .s10

/-- Every answer of a sequence of ticks keeps the port's contract (20_memory.md R43). -/
def answersOk (c : Cfg) (answers : List (Bool × Nat)) : Prop := ∀ a ∈ answers, a.2 < 2 ^ c.adcWidth

/-- The line that `phase` selects (00_scope.md §7). -/
def State.selectedOut (s : State) : Bool := if s.phase then s.outB else s.outA

/-- The line that `phase` does not select. -/
def State.otherOut (s : State) : Bool := if s.phase then s.outA else s.outB

/-- The line `phase` selects, as a name (10_state.md R12; log 7). -/
def selectedLine (phase : Bool) : Line := if phase then .b else .a

/-- The line `phase` does not select, as a name. -/
def otherLine (phase : Bool) : Line := if phase then .a else .b

/-- The tick polls the ADC iff it begins Converting or with `pwm_counter = 0` (43_tick_sequence.md R102). -/
def polls (s : State) : Bool := s.adcState == .converting || s.pwmCounter == 0

/-- `ADC_DONE` runs iff the ADC is polled and answers not busy (43_tick_sequence.md R102). -/
def completes (s : State) (busy : Bool) : Bool := polls s && !busy

/-- `d` is the duty that step 4 of the tick reads: the ROM's entry for the sample if the conversion completes in this tick,
and then the sample is in range; else the duty as it was (43_tick_sequence.md R102). -/
def dutyInTick (s : State) (busy : Bool) (raw d : Nat) : Prop :=
  if completes s busy then raw < 2 ^ s.cfg.adcWidth ∧ s.cfg.gamma[raw >>> s.cfg.shift]? = some d else d = s.pwmDuty

/-- The counter after `k` ticks from the value `c` (42_pwm_phase_driver.md R90). -/
def counterAfter (cfg : Cfg) (c k : Nat) : Nat := (c + k) % cfg.steps

/-- `phase` after `k` ticks from the values `c` and `ph` (42_pwm_phase_driver.md R90). -/
def phaseAfter (cfg : Cfg) (c : Nat) (ph : Bool) (k : Nat) : Bool := ph ^^ decide ((c + k) / cfg.steps % 2 = 1)

/-- The events of a tick (43_tick_sequence.md R101, in the order of R95), `d` being the duty that step 4 reads. -/
def tickEvents (s : State) (busy : Bool) (raw d : Nat) : List Event :=
  (if s.pwmCounter = 0 ∧ s.cfg.wdtEnable = true then [.wdtKick] else []) ++
  (if s.pwmCounter = 0 ∧ s.adcState = .idle then [.adcStart] else []) ++
  (if polls s then [.adcPoll busy] else []) ++
  (if completes s busy then [.adcDone raw (raw >>> s.cfg.shift) d] else []) ++
  (if s.pwmCounter + 1 = s.cfg.steps then [.phaseToggle (!s.phase)] else []) ++
  [.out (otherLine (phaseAfter s.cfg s.pwmCounter s.phase 1)) false,
   .out (selectedLine (phaseAfter s.cfg s.pwmCounter s.phase 1)) (decide (counterAfter s.cfg s.pwmCounter 1 < d))]

/-- Read a list of events with "a conversion is in flight" kept beside it: none as soon as a start comes while one is in
flight, or a completion while none is (41_sampling_state_machine.md R74). -/
def conversionScan : Bool → List Event → Option Bool
  | inFlight, [] => some inFlight
  | inFlight, .adcStart :: rest => if inFlight then none else conversionScan true rest
  | inFlight, .adcDone _ _ _ :: rest => if inFlight then conversionScan false rest else none
  | inFlight, .wdtKick :: rest => conversionScan inFlight rest
  | inFlight, .adcPoll _ :: rest => conversionScan inFlight rest
  | inFlight, .phaseToggle _ :: rest => conversionScan inFlight rest
  | inFlight, .out _ _ :: rest => conversionScan inFlight rest

/-- The other line. -/
def Line.swap : Line → Line
  | .a => .b
  | .b => .a

/-- The event with the two lines exchanged. -/
def Event.swap : Event → Event
  | .phaseToggle p => .phaseToggle (!p)
  | .out l v => .out l.swap v
  | .wdtKick => .wdtKick
  | .adcStart => .adcStart
  | .adcPoll b => .adcPoll b
  | .adcDone r i d => .adcDone r i d

/-- The state with the two lines exchanged (10_state.md R23: "the symmetry ... in A and B"). -/
def State.swap (s : State) : State :=
  { s with phase := !s.phase, outA := s.outB, outB := s.outA, events := s.events.map Event.swap }

/-- Figures of the platform that no rule of the model reads (92_eei_decisions.md D25). -/
structure Platform where
  tickDuration : Nat
  deadTimeMin : Nat
  wdtPeriod : Nat
  deriving DecidableEq, Repr

/-- R127 (d): with `WDT_ENABLE`, the watchdog's period is longer than `STEPS` tick durations. -/
def Platform.watchdogOutlasts (p : Platform) (c : Cfg) : Prop :=
  c.wdtEnable = true → c.steps * p.tickDuration < p.wdtPeriod

/-- The premise a liveness claim takes on the ADC: no more than `k` busy answers in a row (60_exceptions.md R106,
92_eei_decisions.md D26). -/
def completesWithin (k : Nat) (answers : List (Bool × Nat)) : Prop :=
  ∀ before run after, answers = before ++ run ++ after → (∀ a ∈ run, a.1 = true) → run.length ≤ k

end Sys2Proof.Machine
end

