-- ==== Sys2Proof/Certificates/Slice0/Obligations.lean ====
section
/-! DEFINITION. The statements for the provers, from the numbered rules of spec/. Each docstring names the rule, and
where a clause rests on a choice of the model or a decision the spec marks as its own, the log entry. -/

open Sys2Proof Sys2Proof.Machine

/-! ## Encoding -/

/-- 30_encoding.md R50: words written out from the table, with ignored bits at 0 and at 1, decode to their operation
(the select word is the spec's own device, D16; log 22). -/
def Obligations.TableWordsDecode : Prop :=
  decodeSel 0b001010000 = .op .wdtKick ∧ decodeSel 0b001110111 = .op .adcStart ∧ decodeSel 0b010010111 = .op .adcIdle ∧
  decodeSel 0b010001100 = .op .adcWait ∧ decodeSel 0b010011011 = .op .adcDone ∧ decodeSel 0b011011101 = .op .cntInc ∧
  decodeSel 0b011000010 = .op .cntWrap ∧ decodeSel 0b100011111 = .op .pwmCmp ∧ decodeSel 0b101011110 = .op .outBreakB ∧
  decodeSel 0b101000001 = .op .outBreakA ∧ decodeSel 0b101100000 = .op .outMakeA ∧
  decodeSel 0b101111111 = .op .outMakeB ∧ decodeSel 0b111000000 = .op .gammaLookup ∧ decodeSel 0b000010101 = .op .reset

/-- 30_encoding.md R49, R51: a word decodes to an operation exactly when it matches that operation's row under its mask
(so no word matches two rows), and every word that decodes to nothing matches no row (D16; log 22). -/
def Obligations.DecodeIsMatchUnderMask : Prop :=
  (∀ (w : SelWord) (i : Instr), decodeSel w = .op i ↔ ∃ r ∈ opcodeRows, r.instr = i ∧ w &&& r.mask = r.pattern) ∧
  (∀ w : SelWord, (∃ why, decodeSel w = .rejected why) ↔ ∀ r ∈ opcodeRows, w &&& r.mask ≠ r.pattern)

/-- Decode and encode agree on every operation, as a select word and as a word of spec/opcode_table.json
(30_encoding.md R50; D16; log 26). -/
def Obligations.DecodeOfEncode : Prop :=
  ∀ i : Instr, decodeSel (encode i) = .op i ∧ decodeTableWord 16 (encode i).toNat = some i

/-- 30_encoding.md R51. In slots 2.0, 3.0, 4.0, 5.0 and 5.1 an operation matches, and is selected, for every value of CV. A
select word of slot 1.0 matches no row exactly when `z = 0`, one of slot 1.1 exactly when `z = 0` or `s = 1`; and slot 1.0
of a tick is empty exactly when `z = 0` or `WDT_ENABLE = false`, slot 1.1 exactly when `z = 0` or `s = 1`. Step code 6, and
slot 1 of a step without one, match no row, each rejected by its name (D16; log 22). -/
def Obligations.SlotsAreTotal : Prop :=
  (∀ cv : CV, (∃ i, decodeSel (selWord 2 false cv) = .op i) ∧ (∃ i, decodeSel (selWord 3 false cv) = .op i) ∧
    (∃ i, decodeSel (selWord 4 false cv) = .op i) ∧ (∃ i, decodeSel (selWord 5 false cv) = .op i) ∧
    (∃ i, decodeSel (selWord 5 true cv) = .op i)) ∧
  (∀ cv : CV, (decodeSel (selWord 1 false cv) = .rejected .emptySlot ↔ cv.z = false) ∧
    (decodeSel (selWord 1 true cv) = .rejected .emptySlot ↔ cv.z = false ∨ cv.s = true)) ∧
  (∀ (slot : Bool) (cv : CV), decodeSel (selWord 6 slot cv) = .rejected .unusedStepCode) ∧
  (∀ (stepCode : BitVec 3) (cv : CV), stepCode ∉ [(1 : BitVec 3), 5, 6] →
    decodeSel (selWord stepCode true cv) = .rejected .noSuchSlot) ∧
  (∀ s : State, s.At .s10 → resetDue s = false →
    (selected s = none ↔ s.pwmCounter ≠ 0 ∨ s.cfg.wdtEnable = false)) ∧
  (∀ s : State, s.At .s11 → (selected s = none ↔ s.pwmCounter ≠ 0 ∨ s.adcState = .converting)) ∧
  (∀ (s : State) (p : Place), s.At p → p ≠ .s10 → p ≠ .s11 → ∃ i, selected s = some i)

/-- A word laid where the machine selects its next operation is the one it selects: from every state that can take a step,
for every operation. `CNT_INC` never runs with `STEPS = 1` (42_pwm_phase_driver.md R80). Model's own: log 23. -/
def Obligations.FetchWordIsSelected : Prop :=
  ∀ (i : Instr) (s : State), s.cfg.wf = true → s.inRange = true → (i = .cntInc → 2 ≤ s.cfg.steps) →
    selected (s.withFetchWord 16 (encode i).toNat) = some i ∧ (s.withFetchWord 16 (encode i).toNat).cfg.wf = true ∧
      (s.withFetchWord 16 (encode i).toNat).inRange = true

/-! ## The operations: when each runs, and its whole effect -/

/-- 43_tick_sequence.md R96: `WDT_KICK` runs in slot 1.0 of a tick exactly when `pwm_counter == 0` and `WDT_ENABLE`; it
sends its request and writes no register. -/
def Obligations.WdtKickSendsRequest : Prop :=
  (∀ s : State, s.At .s10 → resetDue s = false →
    (selected s = some .wdtKick ↔ s.pwmCounter = 0 ∧ s.cfg.wdtEnable = true)) ∧
  (∀ s : State, exec .wdtKick s = .next { s with events := s.events ++ [.wdtKick] })

/-- 41_sampling_state_machine.md R70: `ADC_START` runs in slot 1.1 exactly when `pwm_counter == 0` and `adc_state = Idle`;
it sends its request and makes the state Converting. -/
def Obligations.AdcStartBeginsConversion : Prop :=
  (∀ s : State, s.At .s11 → (selected s = some .adcStart ↔ s.pwmCounter = 0 ∧ s.adcState = .idle)) ∧
  (∀ s : State, exec .adcStart s = .next { s with adcState := .converting, events := s.events ++ [.adcStart] })

/-- 41_sampling_state_machine.md R71: `ADC_IDLE` runs in slot 2.0 exactly when `adc_state = Idle`; it writes nothing and uses
no port. That it never runs in a tick with `pwm_counter = 0` after slot 1.1 is the rule's own inference, and rests on the
start tick polling (D17, log 13). -/
def Obligations.AdcIdleDoesNothing : Prop :=
  (∀ s : State, s.At .s20 → (selected s = some .adcIdle ↔ s.adcState = .idle)) ∧
  (∀ s : State, exec .adcIdle s = .next s) ∧
  (∀ s t : State, s.At .s11 → s.pwmCounter = 0 → step s = .next t → selected t ≠ some .adcIdle)

/-- 41_sampling_state_machine.md R72: `ADC_WAIT` runs in slot 2.0 exactly when `adc_state = Converting` and the sample is
busy; it records the poll, stays Converting, and changes no register. -/
def Obligations.AdcWaitPollsOnce : Prop :=
  (∀ s : State, s.At .s20 → (selected s = some .adcWait ↔ s.adcState = .converting ∧ s.busy = true)) ∧
  (∀ s : State, exec .adcWait s = .next { s with events := s.events ++ [.adcPoll true] })

/-- 41_sampling_state_machine.md R73: `ADC_DONE` runs in slot 2.0 exactly when `adc_state = Converting` and the sample is
not busy; the duty becomes the ROM's entry at `raw >> SHIFT`, in `[1, 100]`, the state Idle, and nothing else changes but
the transients (log 11) and the two events. A sample of 0 reads entry 0, the greatest sample reads entry `N - 1` and
gives 100. -/
def Obligations.AdcDoneWritesDuty : Prop :=
  (∀ s : State, s.At .s20 → (selected s = some .adcDone ↔ s.adcState = .converting ∧ s.busy = false)) ∧
  (∀ s : State, s.cfg.wf = true → s.raw < 2 ^ s.cfg.adcWidth →
    ∃ d, s.cfg.gamma[s.raw >>> s.cfg.shift]? = some d ∧ 1 ≤ d ∧ d ≤ 100 ∧ s.raw >>> s.cfg.shift < s.cfg.n ∧
      exec .adcDone s = .next { s with
        pwmDuty := d, adcState := .idle, idx := s.raw >>> s.cfg.shift, lookup := d,
        events := s.events ++ [.adcPoll false, .adcDone s.raw (s.raw >>> s.cfg.shift) d] } ∧
      (s.raw = 0 → s.raw >>> s.cfg.shift = 0) ∧
      (s.raw = 2 ^ s.cfg.adcWidth - 1 → s.raw >>> s.cfg.shift = s.cfg.n - 1 ∧ d = 100))

/-- 40_gamma_table.md R60, R66: `GAMMA_LOOKUP` returns the ROM's entry at `idx`, in `[1, 100]`, and writes no register;
its last entry is 100. Standing alone it returns to the slot it was called from (log 11). -/
def Obligations.GammaLookupReturnsEntry : Prop :=
  (∀ s : State, s.cfg.wf = true → s.idx < s.cfg.n →
    ∃ d, s.cfg.gamma[s.idx]? = some d ∧ 1 ≤ d ∧ d ≤ 100 ∧ (s.idx = s.cfg.n - 1 → d = 100) ∧
      exec .gammaLookup s = .next { s with lookup := d } ∧
      (s.inRange = true → s.lookupCall = true → step s = .next { s with lookup := d, lookupCall := false })) ∧
  (∀ s : State, s.cfg.n ≤ s.idx → exec .gammaLookup s = .refused .romIndexOutOfRange)

/-- 42_pwm_phase_driver.md R80: `CNT_INC` runs in slot 3.0 exactly when `pwm_counter + 1 != STEPS`; it adds one to the
counter and changes nothing else; when it runs in a state that can occur the new value is at most `STEPS - 1`, below
`2^CNT_W`; with `STEPS = 1` it never runs. -/
def Obligations.CntIncAddsOne : Prop :=
  (∀ s : State, s.At .s30 → (selected s = some .cntInc ↔ s.pwmCounter + 1 ≠ s.cfg.steps)) ∧
  (∀ s : State, exec .cntInc s = .next { s with pwmCounter := s.pwmCounter + 1 }) ∧
  (∀ s : State, s.At .s30 → s.inRange = true → selected s = some .cntInc →
    s.pwmCounter + 1 ≤ s.cfg.steps - 1 ∧ s.pwmCounter + 1 < 2 ^ cntW s.cfg ∧ s.cfg.steps ≠ 1)

/-- 42_pwm_phase_driver.md R81: `CNT_WRAP` runs in slot 3.0 exactly when `pwm_counter + 1 == STEPS`; in one operation the
counter becomes 0 and `phase` is inverted, with the new value in its event, and nothing else changes; with `STEPS = 1` it
runs on every tick and the counter is 0 before it too. -/
def Obligations.CntWrapTogglesPhase : Prop :=
  (∀ s : State, s.At .s30 → (selected s = some .cntWrap ↔ s.pwmCounter + 1 = s.cfg.steps)) ∧
  (∀ s : State, exec .cntWrap s =
    .next { s with pwmCounter := 0, phase := !s.phase, events := s.events ++ [.phaseToggle (!s.phase)] }) ∧
  (∀ s : State, s.At .s30 → s.inRange = true → s.cfg.steps = 1 → s.pwmCounter = 0 ∧ selected s = some .cntWrap)

/-- 42_pwm_phase_driver.md R82: `PWM_CMP` runs in slot 4.0 of every tick; `active` is `pwm_counter < pwm_duty`, and no
register is written; it is true at counter 0 in every state that can occur, and on every tick when `pwm_duty >= STEPS`. -/
def Obligations.PwmCmpComparesStrictly : Prop :=
  (∀ s : State, s.At .s40 → selected s = some .pwmCmp) ∧
  (∀ s : State, exec .pwmCmp s = .next { s with active := decide (s.pwmCounter < s.pwmDuty) }) ∧
  (∀ s t : State, s.inRange = true → exec .pwmCmp s = .next t →
    (s.pwmCounter = 0 → t.active = true) ∧ (s.cfg.steps ≤ s.pwmDuty → t.active = true) ∧
      (s.pwmDuty = 1 → (t.active = true ↔ s.pwmCounter = 0)))

/-- 42_pwm_phase_driver.md R83, R84: in slot 5.0 the line that is not selected is made inactive, and the other latch is not
touched (which value of `phase` selects which line is D1, log 7; the latches are D4, log 6). -/
def Obligations.BreakMakesOtherInactive : Prop :=
  (∀ s : State, s.At .s50 → (selected s = some .outBreakB ↔ s.phase = false) ∧
    (selected s = some .outBreakA ↔ s.phase = true)) ∧
  (∀ s : State, exec .outBreakB s = .next { s with outB := false, events := s.events ++ [.out .b false] }) ∧
  (∀ s : State, exec .outBreakA s = .next { s with outA := false, events := s.events ++ [.out .a false] })

/-- 42_pwm_phase_driver.md R85, R86: in slot 5.1 the selected line takes the value of `active`, and the other latch is not
touched (D1, log 7; D4, log 6). -/
def Obligations.MakeDrivesSelected : Prop :=
  (∀ s : State, s.At .s51 → (selected s = some .outMakeA ↔ s.phase = false) ∧
    (selected s = some .outMakeB ↔ s.phase = true)) ∧
  (∀ s : State, exec .outMakeA s = .next { s with outA := s.active, events := s.events ++ [.out .a s.active] }) ∧
  (∀ s : State, exec .outMakeB s = .next { s with outB := s.active, events := s.events ++ [.out .b s.active] })

/-- 70_reset_and_hazards.md R125, R113: `RESET` writes all six registers and leaves `Cfg`; taken by a step it discards
everything, whatever the registers held, and the machine stands before step 1 (`phase`, `adc_state` and the latches: D2 to
D4, log 4, 5, 6; the model's own fields: log 15, 25). -/
def Obligations.ResetDiscardsState : Prop :=
  (∀ s : State, exec .reset s = .next { s with
    pwmCounter := 0, phase := false, pwmDuty := s.cfg.initialDuty, adcState := .idle, outA := false, outB := false }) ∧
  (∀ (s : State) (rest : List Input), s.cfg.wf = true → s.At .s10 → s.inputs = .reset :: rest →
    step s = .next { State.resetWith s.cfg with inputs := rest, draws := s.draws })

/-- The frame of the fourteen operations (42_pwm_phase_driver.md R80 to R86, 41_sampling_state_machine.md R70 to R73 and the
others, each "State written"): only the operations named write a register, and none writes the configuration, so every
read of the ROM answers as before (20_memory.md R44), or moves the tick on. -/
def Obligations.OperationsFrame : Prop :=
  ∀ (i : Instr) (s t : State), exec i s = .next t →
    (i ∉ [Instr.cntInc, .cntWrap, .reset] → t.pwmCounter = s.pwmCounter) ∧
    (i ∉ [Instr.cntWrap, .reset] → t.phase = s.phase) ∧
    (i ∉ [Instr.adcDone, .reset] → t.pwmDuty = s.pwmDuty) ∧
    (i ∉ [Instr.adcStart, .adcDone, .reset] → t.adcState = s.adcState) ∧
    (i ∉ [Instr.outBreakA, .outMakeA, .reset] → t.outA = s.outA) ∧
    (i ∉ [Instr.outBreakB, .outMakeB, .reset] → t.outB = s.outB) ∧
    (i ≠ .pwmCmp → t.active = s.active) ∧
    (i ∉ [Instr.adcDone, .gammaLookup] → t.lookup = s.lookup) ∧ (i ≠ .adcDone → t.idx = s.idx) ∧
    (i ∈ [Instr.adcIdle, .cntInc, .pwmCmp, .gammaLookup, .reset] → t.events = s.events) ∧
    t.cfg = s.cfg ∧ (∀ k, romRead t.cfg k = romRead s.cfg k) ∧ t.place = s.place ∧ t.lookupCall = s.lookupCall ∧
    t.busy = s.busy ∧ t.raw = s.raw ∧ t.inputs = s.inputs ∧ t.draws = s.draws

/-! ## The step -/

/-- A step runs the decoded operation: where the select word of the slot decodes to `i` and the row's extra condition holds,
step takes the environment's event if the machine stands between two ticks, runs `i`, and goes on. Model's own step: log 2. -/
def Obligations.StepRunsDecodedOperation : Prop :=
  ∀ (s : State) (i : Instr), s.cfg.wf = true → (s.inRange = true ∨ i = .reset) → decodeSel (selOf s) = .op i →
    (i = .wdtKick → s.cfg.wdtEnable = true) → step s = andThen (exec i (takeInput s)) (advance (some i))

/-- 30_encoding.md R51: "An empty slot changes no state and emits no event": the registers stay, and the next slot comes.
Only slots 1.0 and 1.1 can be empty. At slot 1.0 the tick's answers come in (model's own: log 3). -/
def Obligations.EmptySlotChangesNothing : Prop :=
  ∀ s : State, s.cfg.wf = true → s.inRange = true → selected s = none →
    (s.place = .s10 ∨ s.place = .s11) ∧ ∃ t, step s = .next t ∧
      t.cfg = s.cfg ∧ t.pwmCounter = s.pwmCounter ∧ t.phase = s.phase ∧ t.pwmDuty = s.pwmDuty ∧
      t.adcState = s.adcState ∧ t.outA = s.outA ∧ t.outB = s.outB ∧ t.place = s.place.next ∧
      (s.place = .s10 → t.events = []) ∧
      (s.place = .s11 → t.events = s.events ∧ t.busy = s.busy ∧ t.raw = s.raw ∧ t.inputs = s.inputs)

/-- 00_scope.md R8, 60_exceptions.md R107: an ill-formed configuration has no step, and which configurations are ill formed
is what R2 to R6 say, written out entry by entry. Two clauses are choices: that every `N = 2^(ADC_WIDTH - SHIFT)` is well
formed, `N = 1` included, where the source shows 64 and 128 (D23, log 19), and the range of `INITIAL_DUTY` (D5, log 29). -/
def Obligations.IllFormedConfigHasNoStep : Prop :=
  (∀ s : State, s.cfg.wf = false → step s = .refused .illFormedConfig) ∧
  (∀ c : Cfg, c.wf = true ↔
    0 < c.steps ∧ 1 ≤ c.adcWidth ∧ c.shift ≤ c.adcWidth ∧ c.n = 2 ^ (c.adcWidth - c.shift) ∧
    (2 ^ c.adcWidth - 1) >>> c.shift < c.n ∧ c.gamma.length = c.n ∧
    (∀ i < c.n, ∃ d, c.gamma[i]? = some d ∧ 1 ≤ d ∧ d ≤ 100) ∧
    (∀ i d e, c.gamma[i]? = some d → c.gamma[i + 1]? = some e → d ≤ e) ∧
    c.gamma[c.n - 1]? = some 100 ∧ 1 ≤ c.initialDuty ∧ c.initialDuty ≤ 100)

/-- 30_encoding.md R52: values that cannot occur have no step: the registers' (RESET excepted, log 10), and a sample out of
range where it is read. -/
def Obligations.ImpossibleValuesHaveNoStep : Prop :=
  (∀ s : State, s.cfg.wf = true → resetDue s = false →
    (s.cfg.steps ≤ s.pwmCounter ∨ s.pwmDuty = 0 ∨ 101 ≤ s.pwmDuty) → step s = .refused .registerOutOfRange) ∧
  (∀ s : State, s.cfg.wf = true → s.inRange = true → s.At .s20 → s.adcState = .converting → s.busy = false →
    2 ^ s.cfg.adcWidth ≤ s.raw → step s = .refused .rawOutOfRange)

/-- 43_tick_sequence.md R99, 60_exceptions.md R105: in every state of the invariant there is a step. -/
def Obligations.StepIsTotal : Prop := ∀ s : State, s.Inv → ∃ t, step s = .next t

/-- 10_state.md R23 (the values of R21's registers at reset) with the invariant: it holds right after reset under every
well-formed configuration, and State.reset's is one. The values at reset are D2 to D4 (log 4, 5, 6); the model's own fields:
log 25; the defaults: log 8. -/
def Obligations.ResetSatisfiesInv : Prop :=
  (∀ c : Cfg, c.wf = true → (State.resetWith c).Inv) ∧ State.reset.Inv ∧ State.reset = State.resetWith Config.default128

/-- 10_state.md R21, 42_pwm_phase_driver.md R87: every step, that is every slot of every tick and every RESET, keeps the
invariant: the counter in `[0, STEPS)`, the duty in `[1, 100]`, never both lines active, also between slots 5.0 and 5.1.
The values a RESET gives are D2 to D4 (log 4, 5, 6). -/
def Obligations.StepKeepsInv : Prop := ∀ s t : State, s.Inv → step s = .next t → t.Inv

/-- 42_pwm_phase_driver.md R87: the break write alone restores mutual exclusion "from any prior latch values": after slot
5.0, and after slot 5.1 that follows it, not both lines are active, whatever the latches held (the latches are D4, log 6;
the line that is not selected is D1, log 7). -/
def Obligations.BreakRestoresExclusion : Prop :=
  ∀ s t u : State, s.At .s50 → step s = .next t → step t = .next u →
    t.exclusive ∧ t.otherOut = false ∧ u.exclusive ∧ u.otherOut = false

/-- 10_state.md §1 (columns "written by") and R16: a step that changes a register ran one of the operations that own it. -/
def Obligations.OnlyOwnersWriteRegisters : Prop :=
  ∀ s t : State, step s = .next t →
    (t.pwmCounter ≠ s.pwmCounter → selected s ∈ [some Instr.cntInc, some .cntWrap, some .reset]) ∧
    (t.phase ≠ s.phase → selected s ∈ [some Instr.cntWrap, some .reset]) ∧
    (t.pwmDuty ≠ s.pwmDuty → selected s ∈ [some Instr.adcDone, some .reset]) ∧
    (t.adcState ≠ s.adcState → selected s ∈ [some Instr.adcStart, some .adcDone, some .reset]) ∧
    (t.outA ≠ s.outA → selected s ∈ [some Instr.outBreakA, some .outMakeA, some .reset]) ∧
    (t.outB ≠ s.outB → selected s ∈ [some Instr.outBreakB, some .outMakeB, some .reset])

/-- 00_scope.md R1, 10_state.md R24, 20_memory.md R44: no step, RESET included, writes the configuration, and the ROM answers
every read as before. -/
def Obligations.ConfigurationNeverChanges : Prop :=
  ∀ s t : State, step s = .next t → t.cfg = s.cfg ∧ ∀ k, romRead t.cfg k = romRead s.cfg k

/-- 60_exceptions.md R111, 70_reset_and_hazards.md R125 (D21, log 15): RESET is selected exactly when it has come and the
machine stands between two ticks; every other step that is no call of the lookup goes on to the next slot. -/
def Obligations.ResetOnlyBetweenTicks : Prop :=
  (∀ s : State, selected s = some .reset ↔ s.At .s10 ∧ nextInput s = .reset) ∧
  (∀ s t : State, step s = .next t → selected s ≠ some .reset → s.lookupCall = false →
    t.place = s.place.next ∧ t.lookupCall = false)

/-- 20_memory.md R43 (a), (c), and 70_reset_and_hazards.md R125: when nothing is listed the environment's next event is a
free draw, its sample in range, and the draw is used up. It holds whatever the free values are. Model's own: log 3. -/
def Obligations.UnlistedInputsAreFreeDraws : Prop :=
  ∀ s : State, s.At .s10 → s.inputs = [] →
    nextInput s = (if Config.freeReset s.draws then .reset
      else .tick (Config.freeBusy s.draws) (Config.freeRaw s.draws % 2 ^ s.cfg.adcWidth)) ∧
    (takeInput s).draws = s.draws + 1 ∧ (takeInput s).inputs = [] ∧ (takeInput s).events = [] ∧
    (takeInput s).busy = (!Config.freeReset s.draws && Config.freeBusy s.draws) ∧
    (takeInput s).raw = (if Config.freeReset s.draws then 0 else Config.freeRaw s.draws % 2 ^ s.cfg.adcWidth) ∧
    (takeInput s).raw < 2 ^ s.cfg.adcWidth

/-! ## The tick -/

/-- 43_tick_sequence.md R102: the seven slots together are one case split on the state before the tick; the whole next
state and the whole event list (R101). The tick that starts a conversion polls it (D17, log 13), the kick comes before
the start (D18, log 14), `phase` selects by D1 (log 7). -/
def Obligations.TickClosedForm : Prop :=
  ∀ (s : State) (busy : Bool) (raw d : Nat), s.Ready → dutyInTick s busy raw d →
    tick s busy raw = .next { s with
      pwmCounter := (s.pwmCounter + 1) % s.cfg.steps
      phase := s.phase ^^ (s.pwmCounter + 1 == s.cfg.steps)
      pwmDuty := d
      adcState := if completes s busy then .idle else if polls s then .converting else .idle
      outA := !(s.phase ^^ (s.pwmCounter + 1 == s.cfg.steps)) && decide ((s.pwmCounter + 1) % s.cfg.steps < d)
      outB := (s.phase ^^ (s.pwmCounter + 1 == s.cfg.steps)) && decide ((s.pwmCounter + 1) % s.cfg.steps < d)
      busy := false, raw := 0, idx := 0, lookup := 0, active := false
      events := tickEvents s busy raw d }

/-- 43_tick_sequence.md R95, R99, R100: a tick always completes, whatever the two answers, and leaves a state in which the
next tick can begin and R21 holds. -/
def Obligations.TickAlwaysCompletes : Prop :=
  ∀ (s : State) (busy : Bool) (raw : Nat), s.Ready → raw < 2 ^ s.cfg.adcWidth →
    ∃ t, tick s busy raw = .next t ∧ t.Ready ∧ t.Safe ∧ t.cfg = s.cfg ∧ t.inputs = s.inputs

/-- 43_tick_sequence.md R100: `busy` is ignored when `adc_state = Idle` at step 2, `raw` unless `ADC_DONE` runs. -/
def Obligations.UnusedAnswersAreIgnored : Prop :=
  (∀ (s : State) (b b' : Bool) (r r' : Nat), s.Ready → s.adcState = .idle → s.pwmCounter ≠ 0 →
    tick s b r = tick s b' r') ∧
  (∀ (s : State) (r r' : Nat), s.Ready → tick s true r = tick s true r')

/-- 42_pwm_phase_driver.md R93, 43_tick_sequence.md R101: a tick's list ends with exactly two output writes, to different
lines, the first inactive, and holds no other. -/
def Obligations.TickEndsWithTwoWrites : Prop :=
  ∀ (s t : State) (busy : Bool) (raw : Nat), s.Ready → tick s busy raw = .next t →
    ∃ before l v, t.events = before ++ [.out l false, .out l.swap v] ∧ ∀ l' v', Event.out l' v' ∉ before

/-- 41_sampling_state_machine.md R76: a conversion starts on a tick iff that tick begins with `pwm_counter == 0` and
`adc_state = Idle`; a tick that begins Converting starts none, even when it completes one (90_conflicts.md C7). -/
def Obligations.StartsIffIdleAtCounterZero : Prop :=
  ∀ (s t : State) (busy : Bool) (raw : Nat), s.Ready → tick s busy raw = .next t →
    ((Event.adcStart ∈ t.events ↔ s.pwmCounter = 0 ∧ s.adcState = .idle) ∧ t.events.count .adcStart ≤ 1)

/-- 00_scope.md R7: `WDT_ENABLE` selects whether the kick of 43_tick_sequence.md R96 is emitted; its value has no effect on
any register or any other port; the default is `true`. -/
def Obligations.WatchdogEnableOnlyKicks : Prop :=
  (∀ (s t : State) (busy : Bool) (raw : Nat), s.Ready → tick s busy raw = .next t →
    (Event.wdtKick ∈ t.events ↔ s.pwmCounter = 0 ∧ s.cfg.wdtEnable = true) ∧
    ∀ on : Bool, ∃ u, tick { s with cfg := { s.cfg with wdtEnable := on } } busy raw = .next u ∧
      u.pwmCounter = t.pwmCounter ∧ u.phase = t.phase ∧ u.pwmDuty = t.pwmDuty ∧ u.adcState = t.adcState ∧
      u.outA = t.outA ∧ u.outB = t.outB ∧ u.events.filter (· ≠ .wdtKick) = t.events.filter (· ≠ .wdtKick)) ∧
  State.reset.cfg.wdtEnable = true

/-- 41_sampling_state_machine.md R78: the sampling machine cannot delay, skip or alter steps 3 to 5 other than through the
duty: two ticks that begin with the same configuration, counter and phase end with the same counter and phase, whatever
the ADC does; and if they end with the same duty, their outputs and output writes are the same. -/
def Obligations.SamplingNeverDelaysOutputs : Prop :=
  ∀ (s s' t t' : State) (b b' : Bool) (r r' : Nat), s.Ready → s'.Ready → s'.cfg = s.cfg →
    s'.pwmCounter = s.pwmCounter → s'.phase = s.phase → tick s b r = .next t → tick s' b' r' = .next t' →
    t'.pwmCounter = t.pwmCounter ∧ t'.phase = t.phase ∧
    (t'.pwmDuty = t.pwmDuty → t'.outA = t.outA ∧ t'.outB = t.outB ∧
      t'.events.drop (t'.events.length - 2) = t.events.drop (t.events.length - 2))

/-- 10_state.md R23 and 92_eei_decisions.md D1: the block is symmetric in A and B: exchanging the lines and `phase` before a
tick exchanges them after it. -/
def Obligations.TickIsSymmetricInLines : Prop :=
  ∀ (s : State) (busy : Bool) (raw : Nat), s.Ready → tick s.swap busy raw = andThen (tick s busy raw) State.swap

/-- 42_pwm_phase_driver.md R89, 10_state.md R22: after a tick the lines are a function of `phase` and the compare; with a
duty of at least `STEPS` exactly one of them is active (which line `phase` selects is D1, log 7). -/
def Obligations.OutputsFollowCompare : Prop :=
  ∀ (s t : State) (busy : Bool) (raw : Nat), s.Ready → tick s busy raw = .next t →
    t.selectedOut = decide (t.pwmCounter < t.pwmDuty) ∧ t.otherOut = false ∧
    (s.cfg.steps ≤ t.pwmDuty → t.outA = !t.outB)

/-- 70_reset_and_hazards.md R126, R137: the first tick after reset, the ADC busy: kick if enabled, start, poll; with
`STEPS >= 2` output A is driven with `1 < INITIAL_DUTY` and B is inactive; with `STEPS = 1` the tick wraps and drives B. The
reset values are D2 to D4 (log 4, 5, 6), that A is the line of `phase = false` is D1 (log 7), the poll in the start tick is
D17 (log 13), and the kick before the start is D18 (log 14). -/
def Obligations.FirstTickAfterReset : Prop :=
  ∀ (c : Cfg) (raw : Nat), c.wf = true → ∃ t, tick (State.resetWith c) true raw = .next t ∧
    t.adcState = .converting ∧ t.pwmDuty = c.initialDuty ∧
    (∃ rest, t.events = (if c.wdtEnable then [.wdtKick] else []) ++ [.adcStart, .adcPoll true] ++ rest) ∧
    (2 ≤ c.steps → t.pwmCounter = 1 ∧ t.phase = false ∧ t.outA = decide (1 < c.initialDuty) ∧ t.outB = false) ∧
    (c.steps = 1 → t.pwmCounter = 0 ∧ t.phase = true ∧ t.outA = false ∧ t.outB = true)

/-! ## Runs -/

/-- 42_pwm_phase_driver.md R90: from any state in which a tick can begin, after `k + 1` ticks the counter is
`(c + k + 1) mod STEPS` and `phase` is inverted once per `STEPS` ticks, whatever the ADC answers; and so from reset
(`phase` at reset: D2, log 4). -/
def Obligations.CounterAndPhaseLaw : Prop :=
  (∀ (s : State) (answers : List (Bool × Nat)), s.Ready → answersOk s.cfg answers →
    ∃ ts, ticks answers s = .next ts ∧ ts.length = answers.length ∧
      ∀ (k : Nat) (t : State), ts[k]? = some t → t.pwmCounter < s.cfg.steps ∧
        t.pwmCounter = counterAfter s.cfg s.pwmCounter (k + 1) ∧
        t.phase = phaseAfter s.cfg s.pwmCounter s.phase (k + 1)) ∧
  (∀ c : Cfg, c.wf = true → (State.resetWith c).Ready)

/-- 42_pwm_phase_driver.md R90, 43_tick_sequence.md R96, 41_sampling_state_machine.md R77: in any `STEPS` ticks one after
another `phase` is inverted exactly once, the watchdog is kicked exactly once if `WDT_ENABLE` and never if not, and at most
one conversion starts. -/
def Obligations.HalfPeriodCountsEvents : Prop :=
  ∀ (s : State) (answers : List (Bool × Nat)) (ts : List State), s.Ready → answers.length = s.cfg.steps →
    ticks answers s = .next ts →
    (eventsOf ts).count (.phaseToggle (!s.phase)) = 1 ∧ (eventsOf ts).count (.phaseToggle s.phase) = 0 ∧
    (ts.getLast?.getD s).phase = !s.phase ∧
    (eventsOf ts).count .wdtKick = (if s.cfg.wdtEnable then 1 else 0) ∧ (eventsOf ts).count .adcStart ≤ 1

/-- 42_pwm_phase_driver.md R88, R92: an output half-period is the `STEPS` ticks that begin with a wrap tick; with the duty
`d` throughout, the selected line is active on the first `min(d, STEPS)` of them and inactive on the rest, and the other
line is inactive on all (which line `phase` selects is D1, log 7). -/
def Obligations.OnTimePerHalfPeriod : Prop :=
  ∀ (s : State) (answers : List (Bool × Nat)) (ts : List State) (d : Nat), s.Ready →
    s.pwmCounter + 1 = s.cfg.steps → answers.length = s.cfg.steps → ticks answers s = .next ts →
    (∀ t ∈ ts, t.pwmDuty = d) →
    ts.map State.selectedOut =
      List.replicate (min d s.cfg.steps) true ++ List.replicate (s.cfg.steps - min d s.cfg.steps) false ∧
    (∀ t ∈ ts, t.otherOut = false ∧ t.phase = !s.phase) ∧ 1 ≤ (ts.map State.selectedOut).count true

/-- 70_reset_and_hazards.md R137: the first output half-period after reset lasts `STEPS - 1` ticks, and A is active on
`min(d, STEPS) - 1` of them, B on none; the `STEPS`-th tick ends it: it wraps, inverts `phase` and drives B, for the first
time. With `STEPS = 1` that is the first tick (reset values D2 to D4: log 4, 5, 6; A is the line of `phase = false` by D1:
log 7). -/
def Obligations.FirstHalfPeriodIsShort : Prop :=
  ∀ (c : Cfg) (answers : List (Bool × Nat)) (ts : List State) (d : Nat), c.wf = true →
    answers.length = c.steps → ticks answers (State.resetWith c) = .next ts →
    (∀ t ∈ ts.take (c.steps - 1), t.pwmDuty = d) →
    (ts.take (c.steps - 1)).map (·.outA) = List.replicate (min d c.steps - 1) true ++
        List.replicate (c.steps - 1 - (min d c.steps - 1)) false ∧
    (∀ t ∈ ts.take (c.steps - 1), t.outB = false ∧ t.phase = false ∧ ∀ p, Event.phaseToggle p ∉ t.events) ∧
    ∃ t, ts[c.steps - 1]? = some t ∧ t.phase = true ∧ t.pwmCounter = 0 ∧ t.outA = false ∧ t.outB = true ∧
      Event.phaseToggle true ∈ t.events

/-- 41_sampling_state_machine.md R75, 60_exceptions.md R106: from a Converting state, with every answer busy, the machine
stays Converting, the duty keeps its value, no conversion starts, the ADC is polled once per tick, and counter, phase and
outputs evolve as with a constant duty (which line `phase` selects is D1, log 7). -/
def Obligations.StalledAdcFreezesDuty : Prop :=
  ∀ (s : State) (answers : List (Bool × Nat)), s.Ready → s.adcState = .converting → (∀ a ∈ answers, a.1 = true) →
    ∃ ts, ticks answers s = .next ts ∧ ts.length = answers.length ∧
      ∀ (k : Nat) (t : State), ts[k]? = some t → t.adcState = .converting ∧ t.pwmDuty = s.pwmDuty ∧
        Event.adcStart ∉ t.events ∧ t.events.count (.adcPoll true) = 1 ∧
        t.pwmCounter = counterAfter s.cfg s.pwmCounter (k + 1) ∧
        t.phase = phaseAfter s.cfg s.pwmCounter s.phase (k + 1) ∧
        t.selectedOut = decide (t.pwmCounter < s.pwmDuty) ∧ t.otherOut = false

/-- 41_sampling_state_machine.md R74: at most one conversion is in flight, and `adc_state = Converting` exactly when one is:
along the events of any run starts and completions alternate, beginning with what the first state says and ending with what
the last one says. -/
def Obligations.AtMostOneConversionInFlight : Prop :=
  ∀ (s : State) (answers : List (Bool × Nat)) (ts : List State), s.Ready → ticks answers s = .next ts →
    conversionScan s.adcState.bit (eventsOf ts) = some ((ts.getLast?.getD s).adcState.bit)

/-- 41_sampling_state_machine.md R77, 70_reset_and_hazards.md R141: a conversion that answers busy at `L` polls, started on a
tick with counter 0, completes on the tick with counter `L mod STEPS`, `L` ticks later: until then the duty stays and the
machine is Converting; that tick writes the ROM's entry; one start in all. That the start tick polls is D17 (log 13). -/
def Obligations.ConversionTakesItsPolls : Prop :=
  ∀ (s : State) (waits : List (Bool × Nat)) (raw : Nat), s.Ready → s.pwmCounter = 0 → s.adcState = .idle →
    (∀ a ∈ waits, a.1 = true) → raw < 2 ^ s.cfg.adcWidth →
    ∃ ts t, ticks (waits ++ [(false, raw)]) s = .next (ts ++ [t]) ∧ ts.length = waits.length ∧
      (∀ u ∈ ts, u.adcState = .converting ∧ u.pwmDuty = s.pwmDuty) ∧
      t.adcState = .idle ∧ s.cfg.gamma[raw >>> s.cfg.shift]? = some t.pwmDuty ∧
      (ts.getLast?.getD s).pwmCounter = waits.length % s.cfg.steps ∧
      (eventsOf (ts ++ [t])).count .adcStart = 1

/-- 60_exceptions.md R106, 92_eei_decisions.md D26: under the premise that every conversion completes within `K` polls, a
Converting machine completes within the next `K + 1` ticks. -/
def Obligations.CompletesUnderPremise : Prop :=
  ∀ (s : State) (answers : List (Bool × Nat)) (k : Nat), s.Ready → s.adcState = .converting →
    answersOk s.cfg answers → completesWithin k answers → k + 1 ≤ answers.length →
    ∃ ts j t, ticks answers s = .next ts ∧ j ≤ k ∧ ts[j]? = some t ∧ t.adcState = .idle ∧
      ∃ raw idx, Event.adcDone raw idx t.pwmDuty ∈ t.events

/-- 42_pwm_phase_driver.md R91, 90_conflicts.md C2: a new duty is used in the tick that detects it: when a conversion
completes with the entry `d`, that same tick drives the selected line with the compare against `d` (which line `phase`
selects is D1, log 7). -/
def Obligations.NewDutyUsedSameTick : Prop :=
  ∀ (s t : State) (raw d : Nat), s.Ready → s.adcState = .converting → raw < 2 ^ s.cfg.adcWidth →
    s.cfg.gamma[raw >>> s.cfg.shift]? = some d → tick s false raw = .next t →
    t.pwmDuty = d ∧ t.selectedOut = decide ((s.pwmCounter + 1) % s.cfg.steps < d) ∧ t.adcState = .idle

/-! ## Widths and the table -/

/-- 00_scope.md §4, 10_state.md R11 (D6, log 9): `CNT_W` is the least `w >= 1` with `2^w >= STEPS`. -/
def Obligations.CounterWidthIsLeast : Prop :=
  ∀ c : Cfg, 0 < c.steps → 1 ≤ cntW c ∧ c.steps ≤ 2 ^ cntW c ∧ ∀ w, 1 ≤ w → c.steps ≤ 2 ^ w → cntW c ≤ w

/-- 30_encoding.md R48 (a): `idx = raw >> SHIFT` is the slice `raw[ADC_WIDTH-1 : SHIFT]`, and with `SHIFT = 0` it is
`raw`. -/
def Obligations.RomIndexIsSlice : Prop :=
  ∀ (c : Cfg) (raw : BitVec c.adcWidth), c.shift ≤ c.adcWidth →
    romIndex c raw.toNat = (romIndexSlice c raw).toNat ∧ romIndex c raw.toNat < 2 ^ idxW c ∧
      (c.shift = 0 → romIndex c raw.toNat = raw.toNat)

/-- 30_encoding.md R48 (b): the compare of the naturals is the unsigned compare of the registers zero-extended to `CMP_W`
bits, in every state that can occur (the widths are D6, log 9). -/
def Obligations.CompareAtCmpWidth : Prop :=
  ∀ s : State, s.inRange = true →
    compareAtWidth s.cfg (BitVec.ofNat _ s.pwmCounter) (BitVec.ofNat 7 s.pwmDuty) = pwmActive s.pwmCounter s.pwmDuty

/-- 00_scope.md R4, 20_memory.md R33: under a well-formed configuration the static index bound is `N - 1`, and every sample
in range reads an entry. -/
def Obligations.StaticIndexBound : Prop :=
  ∀ c : Cfg, c.wf = true → (2 ^ c.adcWidth - 1) >>> c.shift = c.n - 1 ∧
    ∀ raw < 2 ^ c.adcWidth, romIndex c raw < c.n ∧ (romRead c (romIndex c raw)).isSome = true

/-- 40_gamma_table.md R64, R65: the lookup is in `[1, 100]` and non-decreasing in the index, and so in the sample. -/
def Obligations.LookupMonotoneInRange : Prop :=
  (∀ (c : Cfg) (i j : Nat), c.wf = true → i ≤ j → j < c.n →
    ∃ d d', romRead c i = some d ∧ romRead c j = some d' ∧ 1 ≤ d ∧ d ≤ d' ∧ d' ≤ 100) ∧
  (∀ (c : Cfg) (r r' : Nat), c.wf = true → r ≤ r' → r' < 2 ^ c.adcWidth →
    ∃ d d', romRead c (romIndex c r) = some d ∧ romRead c (romIndex c r') = some d' ∧ 1 ≤ d ∧ d ≤ d' ∧ d' ≤ 100)

/-- 40_gamma_table.md R62: `r(i)` is the largest natural `k` such that `k = 0` or the inequality holds (the search bound of
the model is log 20). -/
def Obligations.GammaRoundIsLargest : Prop :=
  ∀ n i : Nat, 2 ≤ n → i < n →
    (gammaRound n i = 0 ∨ (2 * gammaRound n i - 1) ^ 5 * (n - 1) ^ 11 ≤ 32 * 10 ^ 10 * i ^ 11) ∧
    ∀ k, (k = 0 ∨ (2 * k - 1) ^ 5 * (n - 1) ^ 11 ≤ 32 * 10 ^ 10 * i ^ 11) → k ≤ gammaRound n i

/-- 40_gamma_table.md R61: the generated entry is the source's formula in exact real arithmetic, round half up, floor at 1,
ceiling at 100. -/
def Obligations.GammaGenIsFormula : Prop :=
  ∀ n : Nat, 2 ≤ n → ∃ table, gammaGen n = some table ∧ table.length = n ∧
    ∀ i < n, table[i]? = some (min 100 (max 1 ⌊(100 : ℝ) * ((i : ℝ) / ((n : ℝ) - 1)) ^ ((11 : ℝ) / 5) + 1 / 2⌋₊))

/-- 40_gamma_table.md R63: the two default tables, and the two configurations of D24 (log 8) are well formed. -/
def Obligations.DefaultTablesGenerated : Prop :=
  gammaGen 128 = some Config.gammaTable128 ∧ gammaGen 64 = some Config.gammaTable64 ∧
    Config.default128.wf = true ∧ Config.default64.wf = true

/-- 40_gamma_table.md R64 (last sentence), 00_scope.md R5: a generated table meets every condition on `GAMMA`, so a
configuration that takes it is well formed if its other fields are. -/
def Obligations.GeneratedTableIsLegal : Prop :=
  ∀ c : Cfg, c.stepsOk = true → c.shapeOk = true → c.dutyOk = true → gammaGen c.n = some c.gamma → c.wf = true

/-- 40_gamma_table.md R62: no tie occurs for `N = 64` or `N = 128`, so the rounding direction at a tie is never exercised:
the test on a candidate `k >= 1` passes exactly when the strict inequality holds, and rounding half down gives the same
`r(i)`. -/
def Obligations.NoRoundingTies : Prop :=
  ∀ n ∈ [64, 128], ∀ i < n,
    (∀ k : Nat, 1 ≤ k → (gammaReaches n i k = true ↔ (2 * k - 1) ^ 5 * (n - 1) ^ 11 < 32 * 10 ^ 10 * i ^ 11)) ∧
    (gammaRound n i = 0 ∨ (2 * gammaRound n i - 1) ^ 5 * (n - 1) ^ 11 < 32 * 10 ^ 10 * i ^ 11) ∧
    ∀ k : Nat, (k = 0 ∨ (2 * k - 1) ^ 5 * (n - 1) ^ 11 < 32 * 10 ^ 10 * i ^ 11) → k ≤ gammaRound n i
end

