-- ==== Sys2Proof/Laws/State.lean ====
section
/-! SUPPORT. What each update of the state does to each field. -/

namespace Sys2Proof.Machine

/-! Appending an event. -/

@[simp] theorem emit_cfg (s : State) (e : Event) : (emit s e).cfg = s.cfg := rfl
@[simp] theorem emit_pwmCounter (s : State) (e : Event) : (emit s e).pwmCounter = s.pwmCounter := rfl
@[simp] theorem emit_phase (s : State) (e : Event) : (emit s e).phase = s.phase := rfl
@[simp] theorem emit_pwmDuty (s : State) (e : Event) : (emit s e).pwmDuty = s.pwmDuty := rfl
@[simp] theorem emit_adcState (s : State) (e : Event) : (emit s e).adcState = s.adcState := rfl
@[simp] theorem emit_outA (s : State) (e : Event) : (emit s e).outA = s.outA := rfl
@[simp] theorem emit_outB (s : State) (e : Event) : (emit s e).outB = s.outB := rfl
@[simp] theorem emit_place (s : State) (e : Event) : (emit s e).place = s.place := rfl
@[simp] theorem emit_lookupCall (s : State) (e : Event) : (emit s e).lookupCall = s.lookupCall := rfl
@[simp] theorem emit_busy (s : State) (e : Event) : (emit s e).busy = s.busy := rfl
@[simp] theorem emit_raw (s : State) (e : Event) : (emit s e).raw = s.raw := rfl
@[simp] theorem emit_idx (s : State) (e : Event) : (emit s e).idx = s.idx := rfl
@[simp] theorem emit_lookup (s : State) (e : Event) : (emit s e).lookup = s.lookup := rfl
@[simp] theorem emit_active (s : State) (e : Event) : (emit s e).active = s.active := rfl
@[simp] theorem emit_events (s : State) (e : Event) : (emit s e).events = s.events ++ [e] := rfl
@[simp] theorem emit_inputs (s : State) (e : Event) : (emit s e).inputs = s.inputs := rfl
@[simp] theorem emit_draws (s : State) (e : Event) : (emit s e).draws = s.draws := rfl

/-! Driving line A. -/

@[simp] theorem portOut_a_cfg (s : State) (v : Bool) : (portOut s .a v).cfg = s.cfg := rfl
@[simp] theorem portOut_a_pwmCounter (s : State) (v : Bool) : (portOut s .a v).pwmCounter = s.pwmCounter := rfl
@[simp] theorem portOut_a_phase (s : State) (v : Bool) : (portOut s .a v).phase = s.phase := rfl
@[simp] theorem portOut_a_pwmDuty (s : State) (v : Bool) : (portOut s .a v).pwmDuty = s.pwmDuty := rfl
@[simp] theorem portOut_a_adcState (s : State) (v : Bool) : (portOut s .a v).adcState = s.adcState := rfl
@[simp] theorem portOut_a_outA (s : State) (v : Bool) : (portOut s .a v).outA = v := rfl
@[simp] theorem portOut_a_outB (s : State) (v : Bool) : (portOut s .a v).outB = s.outB := rfl
@[simp] theorem portOut_a_place (s : State) (v : Bool) : (portOut s .a v).place = s.place := rfl
@[simp] theorem portOut_a_lookupCall (s : State) (v : Bool) : (portOut s .a v).lookupCall = s.lookupCall := rfl
@[simp] theorem portOut_a_busy (s : State) (v : Bool) : (portOut s .a v).busy = s.busy := rfl
@[simp] theorem portOut_a_raw (s : State) (v : Bool) : (portOut s .a v).raw = s.raw := rfl
@[simp] theorem portOut_a_idx (s : State) (v : Bool) : (portOut s .a v).idx = s.idx := rfl
@[simp] theorem portOut_a_lookup (s : State) (v : Bool) : (portOut s .a v).lookup = s.lookup := rfl
@[simp] theorem portOut_a_active (s : State) (v : Bool) : (portOut s .a v).active = s.active := rfl
@[simp] theorem portOut_a_events (s : State) (v : Bool) : (portOut s .a v).events = s.events := rfl
@[simp] theorem portOut_a_inputs (s : State) (v : Bool) : (portOut s .a v).inputs = s.inputs := rfl
@[simp] theorem portOut_a_draws (s : State) (v : Bool) : (portOut s .a v).draws = s.draws := rfl

/-! Driving line B. -/

@[simp] theorem portOut_b_cfg (s : State) (v : Bool) : (portOut s .b v).cfg = s.cfg := rfl
@[simp] theorem portOut_b_pwmCounter (s : State) (v : Bool) : (portOut s .b v).pwmCounter = s.pwmCounter := rfl
@[simp] theorem portOut_b_phase (s : State) (v : Bool) : (portOut s .b v).phase = s.phase := rfl
@[simp] theorem portOut_b_pwmDuty (s : State) (v : Bool) : (portOut s .b v).pwmDuty = s.pwmDuty := rfl
@[simp] theorem portOut_b_adcState (s : State) (v : Bool) : (portOut s .b v).adcState = s.adcState := rfl
@[simp] theorem portOut_b_outA (s : State) (v : Bool) : (portOut s .b v).outA = s.outA := rfl
@[simp] theorem portOut_b_outB (s : State) (v : Bool) : (portOut s .b v).outB = v := rfl
@[simp] theorem portOut_b_place (s : State) (v : Bool) : (portOut s .b v).place = s.place := rfl
@[simp] theorem portOut_b_lookupCall (s : State) (v : Bool) : (portOut s .b v).lookupCall = s.lookupCall := rfl
@[simp] theorem portOut_b_busy (s : State) (v : Bool) : (portOut s .b v).busy = s.busy := rfl
@[simp] theorem portOut_b_raw (s : State) (v : Bool) : (portOut s .b v).raw = s.raw := rfl
@[simp] theorem portOut_b_idx (s : State) (v : Bool) : (portOut s .b v).idx = s.idx := rfl
@[simp] theorem portOut_b_lookup (s : State) (v : Bool) : (portOut s .b v).lookup = s.lookup := rfl
@[simp] theorem portOut_b_active (s : State) (v : Bool) : (portOut s .b v).active = s.active := rfl
@[simp] theorem portOut_b_events (s : State) (v : Bool) : (portOut s .b v).events = s.events := rfl
@[simp] theorem portOut_b_inputs (s : State) (v : Bool) : (portOut s .b v).inputs = s.inputs := rfl
@[simp] theorem portOut_b_draws (s : State) (v : Bool) : (portOut s .b v).draws = s.draws := rfl

/-! Leaving a tick. -/

@[simp] theorem clearTransients_cfg (s : State) : (clearTransients s).cfg = s.cfg := rfl
@[simp] theorem clearTransients_pwmCounter (s : State) : (clearTransients s).pwmCounter = s.pwmCounter := rfl
@[simp] theorem clearTransients_phase (s : State) : (clearTransients s).phase = s.phase := rfl
@[simp] theorem clearTransients_pwmDuty (s : State) : (clearTransients s).pwmDuty = s.pwmDuty := rfl
@[simp] theorem clearTransients_adcState (s : State) : (clearTransients s).adcState = s.adcState := rfl
@[simp] theorem clearTransients_outA (s : State) : (clearTransients s).outA = s.outA := rfl
@[simp] theorem clearTransients_outB (s : State) : (clearTransients s).outB = s.outB := rfl
@[simp] theorem clearTransients_place (s : State) : (clearTransients s).place = s.place := rfl
@[simp] theorem clearTransients_lookupCall (s : State) : (clearTransients s).lookupCall = s.lookupCall := rfl
@[simp] theorem clearTransients_busy (s : State) : (clearTransients s).busy = false := rfl
@[simp] theorem clearTransients_raw (s : State) : (clearTransients s).raw = 0 := rfl
@[simp] theorem clearTransients_idx (s : State) : (clearTransients s).idx = 0 := rfl
@[simp] theorem clearTransients_lookup (s : State) : (clearTransients s).lookup = 0 := rfl
@[simp] theorem clearTransients_active (s : State) : (clearTransients s).active = false := rfl
@[simp] theorem clearTransients_events (s : State) : (clearTransients s).events = s.events := rfl
@[simp] theorem clearTransients_inputs (s : State) : (clearTransients s).inputs = s.inputs := rfl
@[simp] theorem clearTransients_draws (s : State) : (clearTransients s).draws = s.draws := rfl

/-! Resetting the registers. -/

@[simp] theorem resetRegisters_cfg (s : State) : (resetRegisters s).cfg = s.cfg := rfl
@[simp] theorem resetRegisters_pwmCounter (s : State) : (resetRegisters s).pwmCounter = 0 := rfl
@[simp] theorem resetRegisters_phase (s : State) : (resetRegisters s).phase = false := rfl
@[simp] theorem resetRegisters_pwmDuty (s : State) : (resetRegisters s).pwmDuty = s.cfg.initialDuty := rfl
@[simp] theorem resetRegisters_adcState (s : State) : (resetRegisters s).adcState = .idle := rfl
@[simp] theorem resetRegisters_outA (s : State) : (resetRegisters s).outA = false := rfl
@[simp] theorem resetRegisters_outB (s : State) : (resetRegisters s).outB = false := rfl
@[simp] theorem resetRegisters_place (s : State) : (resetRegisters s).place = s.place := rfl
@[simp] theorem resetRegisters_lookupCall (s : State) : (resetRegisters s).lookupCall = s.lookupCall := rfl
@[simp] theorem resetRegisters_busy (s : State) : (resetRegisters s).busy = s.busy := rfl
@[simp] theorem resetRegisters_raw (s : State) : (resetRegisters s).raw = s.raw := rfl
@[simp] theorem resetRegisters_idx (s : State) : (resetRegisters s).idx = s.idx := rfl
@[simp] theorem resetRegisters_lookup (s : State) : (resetRegisters s).lookup = s.lookup := rfl
@[simp] theorem resetRegisters_active (s : State) : (resetRegisters s).active = s.active := rfl
@[simp] theorem resetRegisters_events (s : State) : (resetRegisters s).events = s.events := rfl
@[simp] theorem resetRegisters_inputs (s : State) : (resetRegisters s).inputs = s.inputs := rfl
@[simp] theorem resetRegisters_draws (s : State) : (resetRegisters s).draws = s.draws := rfl

/-! Taking the environment's next input off. -/

@[simp] theorem dropInput_cfg (s : State) : (dropInput s).cfg = s.cfg := by
  unfold dropInput; split <;> rfl
@[simp] theorem dropInput_pwmCounter (s : State) : (dropInput s).pwmCounter = s.pwmCounter := by
  unfold dropInput; split <;> rfl
@[simp] theorem dropInput_phase (s : State) : (dropInput s).phase = s.phase := by
  unfold dropInput; split <;> rfl
@[simp] theorem dropInput_pwmDuty (s : State) : (dropInput s).pwmDuty = s.pwmDuty := by
  unfold dropInput; split <;> rfl
@[simp] theorem dropInput_adcState (s : State) : (dropInput s).adcState = s.adcState := by
  unfold dropInput; split <;> rfl
@[simp] theorem dropInput_outA (s : State) : (dropInput s).outA = s.outA := by
  unfold dropInput; split <;> rfl
@[simp] theorem dropInput_outB (s : State) : (dropInput s).outB = s.outB := by
  unfold dropInput; split <;> rfl
@[simp] theorem dropInput_place (s : State) : (dropInput s).place = s.place := by
  unfold dropInput; split <;> rfl
@[simp] theorem dropInput_lookupCall (s : State) : (dropInput s).lookupCall = s.lookupCall := by
  unfold dropInput; split <;> rfl
@[simp] theorem dropInput_busy (s : State) : (dropInput s).busy = s.busy := by
  unfold dropInput; split <;> rfl
@[simp] theorem dropInput_raw (s : State) : (dropInput s).raw = s.raw := by
  unfold dropInput; split <;> rfl
@[simp] theorem dropInput_idx (s : State) : (dropInput s).idx = s.idx := by
  unfold dropInput; split <;> rfl
@[simp] theorem dropInput_lookup (s : State) : (dropInput s).lookup = s.lookup := by
  unfold dropInput; split <;> rfl
@[simp] theorem dropInput_active (s : State) : (dropInput s).active = s.active := by
  unfold dropInput; split <;> rfl
@[simp] theorem dropInput_events (s : State) : (dropInput s).events = s.events := by
  unfold dropInput; split <;> rfl

theorem dropInput_cons (s : State) (e : Input) (rest : List Input) (h : s.inputs = e :: rest) :
    dropInput s = { s with inputs := rest } := by
  simp [dropInput, h]

theorem nextInput_cons (s : State) (e : Input) (rest : List Input) (h : s.inputs = e :: rest) : nextInput s = e := by
  simp [nextInput, h]

/-! Taking an input writes no register and moves nothing. -/

@[simp] theorem takeInput_cfg (s : State) : (takeInput s).cfg = s.cfg := by
  unfold takeInput; split; (split <;> simp); rfl
@[simp] theorem takeInput_pwmCounter (s : State) : (takeInput s).pwmCounter = s.pwmCounter := by
  unfold takeInput; split; (split <;> simp); rfl
@[simp] theorem takeInput_phase (s : State) : (takeInput s).phase = s.phase := by
  unfold takeInput; split; (split <;> simp); rfl
@[simp] theorem takeInput_pwmDuty (s : State) : (takeInput s).pwmDuty = s.pwmDuty := by
  unfold takeInput; split; (split <;> simp); rfl
@[simp] theorem takeInput_adcState (s : State) : (takeInput s).adcState = s.adcState := by
  unfold takeInput; split; (split <;> simp); rfl
@[simp] theorem takeInput_outA (s : State) : (takeInput s).outA = s.outA := by
  unfold takeInput; split; (split <;> simp); rfl
@[simp] theorem takeInput_outB (s : State) : (takeInput s).outB = s.outB := by
  unfold takeInput; split; (split <;> simp); rfl
@[simp] theorem takeInput_place (s : State) : (takeInput s).place = s.place := by
  unfold takeInput; split; (split <;> simp); rfl
@[simp] theorem takeInput_lookupCall (s : State) : (takeInput s).lookupCall = s.lookupCall := by
  unfold takeInput; split; (split <;> simp); rfl

end Sys2Proof.Machine
end

