-- ==== Sys2Proof/Laws/WellFormed.lean ====
section
/-! SUPPORT. What a well-formed configuration guarantees (spec/00_scope.md R2 to R6). -/

namespace Sys2Proof.Cfg

theorem wf_iff (c : Cfg) :
    c.wf = true ↔ c.stepsOk = true ∧ c.shapeOk = true ∧ c.indexOk = true ∧ c.gammaOk = true ∧ c.dutyOk = true := by
  simp only [wf, Bool.and_eq_true, and_assoc]

theorem steps_pos {c : Cfg} (h : c.wf = true) : 0 < c.steps := by
  simpa [stepsOk] using ((wf_iff c).1 h).1

theorem shape {c : Cfg} (h : c.wf = true) : 1 ≤ c.adcWidth ∧ c.shift ≤ c.adcWidth ∧ c.n = 2 ^ (c.adcWidth - c.shift) := by
  simpa [shapeOk, and_assoc] using ((wf_iff c).1 h).2.1

theorem n_pos {c : Cfg} (h : c.wf = true) : 0 < c.n := by
  rw [(shape h).2.2]; positivity

theorem duty_range {c : Cfg} (h : c.wf = true) : 1 ≤ c.initialDuty ∧ c.initialDuty ≤ 100 := by
  simpa [dutyOk] using ((wf_iff c).1 h).2.2.2.2

theorem gamma_facts {c : Cfg} (h : c.wf = true) :
    c.gamma.length = c.n ∧ (∀ d ∈ c.gamma, 1 ≤ d ∧ d ≤ 100) ∧ nonDecreasing c.gamma = true ∧
      c.gamma.getLast? = some 100 := by
  simpa [gammaOk, and_assoc] using ((wf_iff c).1 h).2.2.2.1

/-- The local check says the list is sorted. -/
theorem pairwise_of_nonDecreasing : ∀ {l : List Nat}, nonDecreasing l = true → l.Pairwise (· ≤ ·)
  | [], _ => .nil
  | [a], _ => by simp
  | a :: b :: rest, h => by
    simp only [nonDecreasing, Bool.and_eq_true, decide_eq_true_eq] at h
    have ih := pairwise_of_nonDecreasing h.2
    refine List.pairwise_cons.2 ⟨fun x hx => ?_, ih⟩
    rcases List.mem_cons.1 hx with rfl | hx
    · exact h.1
    · exact h.1.trans ((List.pairwise_cons.1 ih).1 x hx)

/-- An index that a sample in range gives is an index of the ROM (20_memory.md R33). -/
theorem index_lt {c : Cfg} (h : c.wf = true) {raw : Nat} (hr : raw < 2 ^ c.adcWidth) : raw >>> c.shift < c.n := by
  obtain ⟨-, hs, hn⟩ := shape h
  rw [hn, Nat.shiftRight_eq_div_pow, Nat.div_lt_iff_lt_mul (by positivity), ← pow_add]
  rwa [Nat.sub_add_cancel hs]

end Sys2Proof.Cfg

namespace Sys2Proof.Machine

/-- Every index of the ROM has an entry, in `[1, 100]`. -/
theorem romRead_of_lt {c : Cfg} (h : c.wf = true) {i : Nat} (hi : i < c.n) :
    ∃ d, romRead c i = some d ∧ 1 ≤ d ∧ d ≤ 100 := by
  obtain ⟨hl, hr, -, -⟩ := Cfg.gamma_facts h
  have hi' : i < c.gamma.length := hl ▸ hi
  exact ⟨c.gamma[i], by simp [romRead, hi, hi'], hr _ (List.getElem_mem hi')⟩

/-- A read that answers answers an entry of the ROM. -/
theorem romRead_eq_some {c : Cfg} {i d : Nat} (h : romRead c i = some d) : i < c.n ∧ c.gamma[i]? = some d := by
  simp only [romRead] at h
  split at h
  · exact ⟨‹_›, h⟩
  · cases h

theorem romRead_range {c : Cfg} (h : c.wf = true) {i d : Nat} (hd : romRead c i = some d) : 1 ≤ d ∧ d ≤ 100 := by
  obtain ⟨e, he, hr⟩ := romRead_of_lt h (romRead_eq_some hd).1
  rw [he] at hd; cases hd; exact hr

end Sys2Proof.Machine
end

