-- ==== Sys2Proof/Laws/Exec.lean ====
section
/-! SUPPORT. What the shared operations and the meanings can do, said once. -/

namespace Sys2Proof.Machine

theorem andThen_eq_next {o : Host.Outcome State Fault Refusal} {f : State → State} {t : State} :
    andThen o f = .next t ↔ ∃ u, o = .next u ∧ t = f u := by
  cases o <;> simp [andThen, eq_comm]

@[simp] theorem andThen_next (u : State) (f : State → State) : andThen (.next u) f = .next (f u) := rfl

@[simp] theorem andThen_refused (r : Refusal) (f : State → State) : andThen (.refused r) f = .refused r := rfl

theorem readResult_eq_some {s : State} {raw : Nat} :
    readResult s = some raw ↔ s.raw < 2 ^ s.cfg.adcWidth ∧ s.raw = raw := by
  simp [readResult, rawInRange]

theorem callLookup_eq_some {s t : State} :
    callLookup s = some t ↔ ∃ d, romRead s.cfg s.idx = some d ∧ t = { s with lookup := d } := by
  simp [callLookup, eq_comm]

theorem callLookup_of_rom {s : State} {d : Nat} (h : romRead s.cfg s.idx = some d) :
    callLookup s = some { s with lookup := d } := by
  simp [callLookup, h]

/-- What `GAMMA_LOOKUP` can do. -/
theorem execGammaLookup_eq_next {s t : State} :
    execGammaLookup s = .next t ↔ ∃ d, romRead s.cfg s.idx = some d ∧ t = { s with lookup := d } := by
  rw [← callLookup_eq_some, execGammaLookup]
  cases callLookup s <;> simp

/-- What `ADC_DONE` can do. -/
theorem execAdcDone_eq_next {s t : State} :
    execAdcDone s = .next t ↔ s.raw < 2 ^ s.cfg.adcWidth ∧ ∃ d, romRead s.cfg (romIndex s.cfg s.raw) = some d ∧
      t = { s with idx := romIndex s.cfg s.raw, lookup := d, pwmDuty := d, adcState := .idle,
                   events := s.events ++ [.adcPoll false] ++ [.adcDone s.raw (romIndex s.cfg s.raw) d] } := by
  by_cases hr : s.raw < 2 ^ s.cfg.adcWidth
  · cases hd : romRead s.cfg (romIndex s.cfg s.raw) <;>
      simp [execAdcDone, readResult, rawInRange, callLookup, emit, hr, hd, eq_comm]
  · simp [execAdcDone, readResult, rawInRange, hr]

/-- No meaning writes the configuration, moves the slot, or touches what the environment sends. -/
theorem exec_frame {i : Instr} {s t : State} (h : exec i s = .next t) :
    t.cfg = s.cfg ∧ t.place = s.place ∧ t.lookupCall = s.lookupCall ∧ t.busy = s.busy ∧ t.raw = s.raw ∧
      t.inputs = s.inputs ∧ t.draws = s.draws := by
  cases i
  case adcDone => obtain ⟨-, d, -, rfl⟩ := execAdcDone_eq_next.1 h; simp
  case gammaLookup => obtain ⟨d, -, rfl⟩ := execGammaLookup_eq_next.1 h; simp
  all_goals
    simp only [exec, execWdtKick, execAdcStart, execAdcIdle, execAdcWait, execCntInc, execCntWrap, execPwmCmp,
      execOutBreakB, execOutBreakA, execOutMakeA, execOutMakeB, execReset, Host.Outcome.next.injEq] at h
    subst h
    simp [writeLine]

end Sys2Proof.Machine
end

