-- ==== Sys2Proof/Laws/Fetch.lean ====
section
/-! SUPPORT. Which operation each slot selects (spec/30_encoding.md R50), said once so that no later proof runs the
decoder. -/

namespace Sys2Proof.Machine

theorem decode_slot10 (cv : CV) :
    decodeSel (selWord 1#3 false cv) = if cv.z then .op .wdtKick else .rejected .emptySlot := by
  rcases cv with ⟨z, s, b, w, p⟩; revert z s b w p; decide

theorem decode_slot11 (cv : CV) :
    decodeSel (selWord 1#3 true cv) = if cv.z && !cv.s then .op .adcStart else .rejected .emptySlot := by
  rcases cv with ⟨z, s, b, w, p⟩; revert z s b w p; decide

theorem decode_slot20 (cv : CV) :
    decodeSel (selWord 2#3 false cv) = .op (if cv.s then (if cv.b then .adcWait else .adcDone) else .adcIdle) := by
  rcases cv with ⟨z, s, b, w, p⟩; revert z s b w p; decide

theorem decode_slot30 (cv : CV) : decodeSel (selWord 3#3 false cv) = .op (if cv.w then .cntWrap else .cntInc) := by
  rcases cv with ⟨z, s, b, w, p⟩; revert z s b w p; decide

theorem decode_slot40 (cv : CV) : decodeSel (selWord 4#3 false cv) = .op .pwmCmp := by
  rcases cv with ⟨z, s, b, w, p⟩; revert z s b w p; decide

theorem decode_slot50 (cv : CV) : decodeSel (selWord 5#3 false cv) = .op (if cv.p then .outBreakA else .outBreakB) := by
  rcases cv with ⟨z, s, b, w, p⟩; revert z s b w p; decide

theorem decode_slot51 (cv : CV) : decodeSel (selWord 5#3 true cv) = .op (if cv.p then .outMakeB else .outMakeA) := by
  rcases cv with ⟨z, s, b, w, p⟩; revert z s b w p; decide

theorem decode_call (cv : CV) : decodeSel (selWord 7#3 false cv) = .op .gammaLookup := by
  rcases cv with ⟨z, s, b, w, p⟩; revert z s b w p; decide

theorem decode_event (cv : CV) : decodeSel (selWord 0#3 false cv) = .op .reset := by
  rcases cv with ⟨z, s, b, w, p⟩; revert z s b w p; decide

theorem selected_call {s : State} (h : s.lookupCall = true) : selected s = some .gammaLookup := by
  simp [selected, selOf, selCode, h, decode_call, enabled]

theorem resetDue_iff (s : State) :
    resetDue s = true ↔ s.place = .s10 ∧ s.lookupCall = false ∧ nextInput s = .reset := by
  simp [resetDue, atBoundary, and_assoc]

theorem selected_event {s : State} (h : resetDue s = true) : selected s = some .reset := by
  have hl := ((resetDue_iff s).1 h).2.1
  simp [selected, selOf, selCode, h, hl, decode_event, enabled]

/-- Away from the boundary no reset is due. -/
theorem resetDue_of_place {s : State} (h : s.place ≠ .s10) : resetDue s = false := by
  simp [resetDue, atBoundary, h]

theorem selected_s10 {s : State} (hp : s.place = .s10) (hl : s.lookupCall = false) (hr : resetDue s = false) :
    selected s = if s.pwmCounter = 0 ∧ s.cfg.wdtEnable = true then some .wdtKick else none := by
  by_cases hz : s.pwmCounter = 0 <;> cases hw : s.cfg.wdtEnable <;>
    simp [selected, selOf, selCode, hp, hl, hr, Place.code, decode_slot10, cvOf, zFlag, enabled, hz, hw]

theorem selected_s11 {s : State} (hp : s.place = .s11) (hl : s.lookupCall = false) :
    selected s = if s.pwmCounter = 0 ∧ s.adcState = .idle then some .adcStart else none := by
  have hr : resetDue s = false := resetDue_of_place (by simp [hp])
  by_cases hz : s.pwmCounter = 0 <;> cases ha : s.adcState <;>
    simp [selected, selOf, selCode, hp, hl, hr, Place.code, decode_slot11, cvOf, zFlag, AdcState.bit, enabled, hz, ha]

theorem selected_s20 {s : State} (hp : s.place = .s20) (hl : s.lookupCall = false) :
    selected s = some (if s.adcState = .idle then .adcIdle else if s.busy = true then .adcWait else .adcDone) := by
  have hr : resetDue s = false := resetDue_of_place (by simp [hp])
  cases ha : s.adcState <;> cases hb : s.busy <;>
    simp [selected, selOf, selCode, hp, hl, hr, Place.code, decode_slot20, cvOf, AdcState.bit, enabled, ha, hb]

theorem selected_s30 {s : State} (hp : s.place = .s30) (hl : s.lookupCall = false) :
    selected s = some (if s.pwmCounter + 1 = s.cfg.steps then .cntWrap else .cntInc) := by
  have hr : resetDue s = false := resetDue_of_place (by simp [hp])
  by_cases hw : s.pwmCounter + 1 = s.cfg.steps <;>
    simp [selected, selOf, selCode, hp, hl, hr, Place.code, decode_slot30, cvOf, wFlag, enabled, hw]

theorem selected_s40 {s : State} (hp : s.place = .s40) (hl : s.lookupCall = false) : selected s = some .pwmCmp := by
  have hr : resetDue s = false := resetDue_of_place (by simp [hp])
  simp [selected, selOf, selCode, hp, hl, hr, Place.code, decode_slot40, enabled]

theorem selected_s50 {s : State} (hp : s.place = .s50) (hl : s.lookupCall = false) :
    selected s = some (if s.phase = true then .outBreakA else .outBreakB) := by
  have hr : resetDue s = false := resetDue_of_place (by simp [hp])
  cases hq : s.phase <;> simp [selected, selOf, selCode, hp, hl, hr, Place.code, decode_slot50, cvOf, enabled, hq]

theorem selected_s51 {s : State} (hp : s.place = .s51) (hl : s.lookupCall = false) :
    selected s = some (if s.phase = true then .outMakeB else .outMakeA) := by
  have hr : resetDue s = false := resetDue_of_place (by simp [hp])
  cases hq : s.phase <;> simp [selected, selOf, selCode, hp, hl, hr, Place.code, decode_slot51, cvOf, enabled, hq]

/-- Inside a tick no input is taken. -/
theorem takeInput_of_place {s : State} (h : s.place ≠ .s10) : takeInput s = s := by
  simp [takeInput, atBoundary, h]

/-- With a call in progress no input is taken. -/
theorem takeInput_of_call {s : State} (h : s.lookupCall = true) : takeInput s = s := by
  simp [takeInput, atBoundary, h]

/-- At a boundary a listed tick is taken with its two answers. -/
theorem takeInput_tick {s : State} (hp : s.place = .s10) (hl : s.lookupCall = false) {b : Bool} {r : Nat}
    {rest : List Input} (hi : s.inputs = .tick b r :: rest) :
    takeInput s = { s with inputs := rest, busy := b, raw := r, events := [] } := by
  simp [takeInput, atBoundary, hp, hl, nextInput_cons s _ _ hi, dropInput_cons s _ _ hi]

/-- At a boundary a listed reset is taken. -/
theorem takeInput_reset {s : State} (hp : s.place = .s10) (hl : s.lookupCall = false) {rest : List Input}
    (hi : s.inputs = .reset :: rest) :
    takeInput s = { clearTransients { s with inputs := rest } with events := [] } := by
  simp [takeInput, atBoundary, hp, hl, nextInput_cons s _ _ hi, dropInput_cons s _ _ hi]

end Sys2Proof.Machine
end

