-- ==== Sys2Proof/Laws/PerInstr.lean ====
section
/-! SUPPORT. The statements made per instruction, about the instruction as syntax. -/

namespace Sys2Proof.Laws.Encode

/-- The encoder, which is written from the columns step.slot and guard of spec/30_encoding.md R50, gives the word of the
column match of the operation's own row, and that word has no bit outside the row's mask (R55). -/
def Statement (i : Instr) : Prop :=
  ∃ r ∈ opcodeRows, r.instr = i ∧ encode i = r.pattern ∧ r.pattern &&& r.mask = r.pattern

theorem wdtKick : Statement .wdtKick :=
  ⟨⟨.wdtKick, 0x050, 0x1F0⟩, by decide, rfl, by decide, by decide⟩

theorem adcStart : Statement .adcStart :=
  ⟨⟨.adcStart, 0x070, 0x1F8⟩, by decide, rfl, by decide, by decide⟩

theorem adcIdle : Statement .adcIdle :=
  ⟨⟨.adcIdle, 0x080, 0x1E8⟩, by decide, rfl, by decide, by decide⟩

theorem adcWait : Statement .adcWait :=
  ⟨⟨.adcWait, 0x08C, 0x1EC⟩, by decide, rfl, by decide, by decide⟩

theorem adcDone : Statement .adcDone :=
  ⟨⟨.adcDone, 0x088, 0x1EC⟩, by decide, rfl, by decide, by decide⟩

theorem cntInc : Statement .cntInc :=
  ⟨⟨.cntInc, 0x0C0, 0x1E2⟩, by decide, rfl, by decide, by decide⟩

theorem cntWrap : Statement .cntWrap :=
  ⟨⟨.cntWrap, 0x0C2, 0x1E2⟩, by decide, rfl, by decide, by decide⟩

theorem pwmCmp : Statement .pwmCmp :=
  ⟨⟨.pwmCmp, 0x100, 0x1E0⟩, by decide, rfl, by decide, by decide⟩

theorem outBreakB : Statement .outBreakB :=
  ⟨⟨.outBreakB, 0x140, 0x1E1⟩, by decide, rfl, by decide, by decide⟩

theorem outBreakA : Statement .outBreakA :=
  ⟨⟨.outBreakA, 0x141, 0x1E1⟩, by decide, rfl, by decide, by decide⟩

theorem outMakeA : Statement .outMakeA :=
  ⟨⟨.outMakeA, 0x160, 0x1E1⟩, by decide, rfl, by decide, by decide⟩

theorem outMakeB : Statement .outMakeB :=
  ⟨⟨.outMakeB, 0x161, 0x1E1⟩, by decide, rfl, by decide, by decide⟩

theorem gammaLookup : Statement .gammaLookup :=
  ⟨⟨.gammaLookup, 0x1C0, 0x1E0⟩, by decide, rfl, by decide, by decide⟩

theorem reset : Statement .reset :=
  ⟨⟨.reset, 0x000, 0x1E0⟩, by decide, rfl, by decide, by decide⟩

end Sys2Proof.Laws.Encode
end

