-- ==== Sys2Proof/Laws/Step.lean ====
section
/-! SUPPORT. Everything one step can do, said once. -/

namespace Sys2Proof.Machine

/-- A step that goes on ran the selected operation or found the slot empty. -/
theorem step_eq_next {s t : State} :
    step s = .next t ↔ s.cfg.wf = true ∧ (s.inRange = true ∨ selected s = some .reset) ∧
      ((selected s = none ∧ t = advance none (takeInput s)) ∨
        ∃ i u, selected s = some i ∧ exec i (takeInput s) = .next u ∧ t = advance (some i) u) := by
  have hb : (s.inRange || selected s == some .reset) = true ↔ s.inRange = true ∨ selected s = some .reset := by simp
  unfold step
  by_cases hw : s.cfg.wf = true
  · by_cases hr : s.inRange = true ∨ selected s = some .reset
    · rw [if_pos hw, if_pos (hb.2 hr)]
      cases hs : selected s with
      | none => simp_all [@eq_comm State t]
      | some i => simp_all [andThen_eq_next]
    · rw [if_pos hw, if_neg (fun h => hr (hb.1 h))]
      simp [hr]
  · simp [hw]

/-- Going on to the next slot writes no register. -/
theorem advance_registers (ran : Option Instr) (s : State) :
    (advance ran s).cfg = s.cfg ∧ (advance ran s).pwmCounter = s.pwmCounter ∧ (advance ran s).phase = s.phase ∧
      (advance ran s).pwmDuty = s.pwmDuty ∧ (advance ran s).adcState = s.adcState ∧ (advance ran s).outA = s.outA ∧
      (advance ran s).outB = s.outB ∧ (advance ran s).events = s.events ∧ (advance ran s).inputs = s.inputs ∧
      (advance ran s).draws = s.draws := by
  unfold advance
  split
  · simp
  · simp
  · split <;> simp

/-- After an operation of a slot, away from the end of the tick. -/
theorem advance_slot {i : Instr} {s : State} (h1 : i ≠ .reset) (h2 : i ≠ .gammaLookup) (hp : s.place ≠ .s51) :
    advance (some i) s = { s with place := s.place.next } := by
  cases i <;> simp_all [advance]

/-- After an operation of slot 5.1. -/
theorem advance_last {i : Instr} {s : State} (h1 : i ≠ .reset) (h2 : i ≠ .gammaLookup) (hp : s.place = .s51) :
    advance (some i) s = { clearTransients s with place := .s10 } := by
  cases i <;> simp_all [advance]

/-- After an empty slot, away from the end of the tick. -/
theorem advance_empty {s : State} (hp : s.place ≠ .s51) : advance none s = { s with place := s.place.next } := by
  simp [advance, hp]

end Sys2Proof.Machine
end

