-- ==== Sys2Proof/Laws/Slots.lean ====
section
/-! SUPPORT. What the step of each slot of a tick does, from the state as the slot begins (spec/43_tick_sequence.md
R95). -/

namespace Sys2Proof.Machine

/-- A step that runs an operation. -/
theorem step_of_op {s u : State} {i : Instr} (hw : s.cfg.wf = true) (hr : s.inRange = true) (hs : selected s = some i)
    (hu : exec i (takeInput s) = .next u) : step s = .next (advance (some i) u) :=
  step_eq_next.2 ⟨hw, .inl hr, .inr ⟨i, u, hs, hu, rfl⟩⟩

/-- A step of an empty slot. -/
theorem step_of_empty {s : State} (hw : s.cfg.wf = true) (hr : s.inRange = true) (hs : selected s = none) :
    step s = .next (advance none (takeInput s)) :=
  step_eq_next.2 ⟨hw, .inl hr, .inl ⟨hs, rfl⟩⟩

/-- Slot 1.0 of a listed tick: its answers come in, and the watchdog is kicked if it is due. -/
theorem step_s10 {s : State} (hw : s.cfg.wf = true) (hr : s.inRange = true) (hp : s.place = .s10)
    (hl : s.lookupCall = false) {b : Bool} {raw : Nat} {rest : List Input} (hi : s.inputs = .tick b raw :: rest) :
    step s = .next { s with
      inputs := rest, busy := b, raw := raw, place := .s11,
      events := if s.pwmCounter = 0 ∧ s.cfg.wdtEnable = true then [.wdtKick] else [] } := by
  have hn : resetDue s = false := by simp [resetDue, nextInput_cons s _ _ hi]
  have ht := takeInput_tick hp hl hi
  by_cases h : s.pwmCounter = 0 ∧ s.cfg.wdtEnable = true
  · rw [step_of_op hw hr (by rw [selected_s10 hp hl hn, if_pos h]) rfl, ht,
      advance_slot (by decide) (by decide) (by simp [hp])]
    simp [emit, h, hp, Place.next]
  · rw [step_of_empty hw hr (by rw [selected_s10 hp hl hn, if_neg h]), ht, advance_empty (by simp [hp])]
    simp [h, hp, Place.next]

/-- Slot 1.1: a conversion starts if the counter is 0 and the machine is idle. -/
theorem step_s11 {s : State} (hw : s.cfg.wf = true) (hr : s.inRange = true) (hp : s.place = .s11)
    (hl : s.lookupCall = false) :
    step s = .next { s with
      place := .s20,
      adcState := if s.pwmCounter = 0 then .converting else s.adcState,
      events := s.events ++ if s.pwmCounter = 0 ∧ s.adcState = .idle then [.adcStart] else [] } := by
  have ht : takeInput s = s := takeInput_of_place (by simp [hp])
  by_cases h : s.pwmCounter = 0 ∧ s.adcState = .idle
  · rw [step_of_op hw hr (by rw [selected_s11 hp hl, if_pos h]) rfl, ht,
      advance_slot (by decide) (by decide) (by simp [hp])]
    simp [emit, h, hp, Place.next]
  · rw [step_of_empty hw hr (by rw [selected_s11 hp hl, if_neg h]), ht, advance_empty (by simp [hp])]
    have : (if s.pwmCounter = 0 then AdcState.converting else s.adcState) = s.adcState := by
      split
      · cases ha : s.adcState <;> simp_all
      · rfl
    simp [h, hp, Place.next, this]

/-- Slot 2.0, Idle: nothing. -/
theorem step_s20_idle {s : State} (hw : s.cfg.wf = true) (hr : s.inRange = true) (hp : s.place = .s20)
    (hl : s.lookupCall = false) (ha : s.adcState = .idle) : step s = .next { s with place := .s30 } := by
  rw [step_of_op hw hr (by rw [selected_s20 hp hl, if_pos ha]) rfl, takeInput_of_place (by simp [hp]),
    advance_slot (by decide) (by decide) (by simp [hp])]
  simp [hp, Place.next]

/-- Slot 2.0, Converting and busy: one poll. -/
theorem step_s20_wait {s : State} (hw : s.cfg.wf = true) (hr : s.inRange = true) (hp : s.place = .s20)
    (hl : s.lookupCall = false) (ha : s.adcState = .converting) (hb : s.busy = true) :
    step s = .next { s with place := .s30, events := s.events ++ [.adcPoll true] } := by
  rw [step_of_op (i := .adcWait) hw hr (by rw [selected_s20 hp hl]; simp [ha, hb]) rfl, takeInput_of_place (by simp [hp]),
    advance_slot (by decide) (by decide) (by simp [hp])]
  simp [hp, emit, Place.next]

/-- Slot 2.0, Converting and not busy: the sample is read, looked up and written. -/
theorem step_s20_done {s : State} (hw : s.cfg.wf = true) (hr : s.inRange = true) (hp : s.place = .s20)
    (hl : s.lookupCall = false) (ha : s.adcState = .converting) (hb : s.busy = false)
    (hraw : s.raw < 2 ^ s.cfg.adcWidth) {d : Nat} (hd : romRead s.cfg (romIndex s.cfg s.raw) = some d) :
    step s = .next { s with
      place := .s30, pwmDuty := d, adcState := .idle, idx := romIndex s.cfg s.raw, lookup := d,
      events := s.events ++ [.adcPoll false, .adcDone s.raw (romIndex s.cfg s.raw) d] } := by
  have ht : takeInput s = s := takeInput_of_place (by simp [hp])
  rw [step_of_op (i := .adcDone) hw hr (by rw [selected_s20 hp hl]; simp [ha, hb])
    (by rw [ht]; exact execAdcDone_eq_next.2 ⟨hraw, d, hd, rfl⟩), advance_slot (by decide) (by decide) (by simp [hp])]
  simp [hp, Place.next]

/-- Slot 3.0: the counter goes on, and at the end of the half-period it wraps and `phase` is inverted. -/
theorem step_s30 {s : State} (hw : s.cfg.wf = true) (hr : s.inRange = true) (hp : s.place = .s30)
    (hl : s.lookupCall = false) :
    step s = .next { s with
      place := .s40, pwmCounter := (s.pwmCounter + 1) % s.cfg.steps,
      phase := s.phase ^^ (s.pwmCounter + 1 == s.cfg.steps),
      events := s.events ++ if s.pwmCounter + 1 = s.cfg.steps then [.phaseToggle (!s.phase)] else [] } := by
  have ht : takeInput s = s := takeInput_of_place (by simp [hp])
  have hlt : s.pwmCounter < s.cfg.steps := by simp [State.inRange] at hr; exact hr.1.1
  by_cases h : s.pwmCounter + 1 = s.cfg.steps
  · rw [step_of_op hw hr (by rw [selected_s30 hp hl, if_pos h]) rfl, ht,
      advance_slot (by decide) (by decide) (by simp [hp])]
    simp [emit, h, hp, Place.next]
  · rw [step_of_op hw hr (by rw [selected_s30 hp hl, if_neg h]) rfl, ht,
      advance_slot (by decide) (by decide) (by simp [hp])]
    have hb : (s.pwmCounter + 1 == s.cfg.steps) = false := by simpa using h
    simp [h, hb, hp, Place.next, Nat.mod_eq_of_lt (show s.pwmCounter + 1 < s.cfg.steps by omega)]

/-- Slot 4.0: the compare. -/
theorem step_s40 {s : State} (hw : s.cfg.wf = true) (hr : s.inRange = true) (hp : s.place = .s40)
    (hl : s.lookupCall = false) :
    step s = .next { s with place := .s50, active := decide (s.pwmCounter < s.pwmDuty) } := by
  rw [step_of_op hw hr (selected_s40 hp hl) rfl, takeInput_of_place (by simp [hp]),
    advance_slot (by decide) (by decide) (by simp [hp])]
  simp [hp, Place.next, pwmActive]

/-- Slot 5.0: the line that is not selected is made inactive. -/
theorem step_s50 {s : State} (hw : s.cfg.wf = true) (hr : s.inRange = true) (hp : s.place = .s50)
    (hl : s.lookupCall = false) :
    step s = .next { s with
      place := .s51, outA := if s.phase then false else s.outA, outB := if s.phase then s.outB else false,
      events := s.events ++ [.out (if s.phase then .a else .b) false] } := by
  have ht : takeInput s = s := takeInput_of_place (by simp [hp])
  cases hq : s.phase
  · rw [step_of_op (i := .outBreakB) hw hr (by rw [selected_s50 hp hl, hq]; simp) rfl, ht,
      advance_slot (by decide) (by decide) (by simp [hp, writeLine])]
    simp [hp, hq, writeLine, emit, portOut, Place.next]
  · rw [step_of_op (i := .outBreakA) hw hr (by rw [selected_s50 hp hl, hq]; simp) rfl, ht,
      advance_slot (by decide) (by decide) (by simp [hp, writeLine])]
    simp [hp, hq, writeLine, emit, portOut, Place.next]

/-- Slot 5.1: the selected line takes the value of the compare, and the tick ends. -/
theorem step_s51 {s : State} (hw : s.cfg.wf = true) (hr : s.inRange = true) (hp : s.place = .s51)
    (hl : s.lookupCall = false) :
    step s = .next { s with
      place := .s10, outA := if s.phase then s.outA else s.active, outB := if s.phase then s.active else s.outB,
      busy := false, raw := 0, idx := 0, lookup := 0, active := false,
      events := s.events ++ [.out (if s.phase then .b else .a) s.active] } := by
  have ht : takeInput s = s := takeInput_of_place (by simp [hp])
  cases hq : s.phase
  · rw [step_of_op (i := .outMakeA) hw hr (by rw [selected_s51 hp hl, hq]; simp) rfl, ht,
      advance_last (by decide) (by decide) (by simp [hp, writeLine])]
    simp [hq, writeLine, emit, portOut, clearTransients]
  · rw [step_of_op (i := .outMakeB) hw hr (by rw [selected_s51 hp hl, hq]; simp) rfl, ht,
      advance_last (by decide) (by decide) (by simp [hp, writeLine])]
    simp [hq, writeLine, emit, portOut, clearTransients]

/-- One step after another. -/
theorem steps_succ_of_next {k : Nat} {s t : State} (h : step s = .next t) : steps (k + 1) s = steps k t := by
  simp [steps, h]

end Sys2Proof.Machine
end

