-- ==== Sys2Proof/Tests/Slice0.lean ====
section
/-! SUPPORT. Tests: ill-formed terms, words written out from spec/30_encoding.md R50, vectors of 95_test_vectors.md, and
for every statement with hypotheses a witness that meets them. -/

namespace Sys2Proof.Tests

open Sys2Proof.Machine

-- one theorem at a time, so that the file needs few threads
set_option Elab.async false

/-! ## Helpers -/

/-- A small configuration: four ROM entries, `SHIFT = 0`, ten ticks a half-period. -/
def tiny : Cfg :=
  { steps := 10, shift := 0, adcWidth := 2, n := 4, gamma := [1, 3, 9, 100], initialDuty := 3, wdtEnable := true }

/-- The same with two ticks a half-period. -/
def two : Cfg := { tiny with steps := 2 }

/-- The same with one tick a half-period. -/
def one : Cfg := { tiny with steps := 1 }

/-- A state under `c` in which the slot `p` comes next, with the registers of a vector. -/
def regs (c : Cfg) (p : Place) (counter : Nat) (phase : Bool) (duty : Nat) (a : AdcState) (outA outB : Bool) : State :=
  { State.resetWith c with
    place := p, pwmCounter := counter, phase := phase, pwmDuty := duty, adcState := a, outA := outA, outB := outB }

/-- The six registers. -/
def view (s : State) : Nat × Bool × Nat × AdcState × Bool × Bool :=
  (s.pwmCounter, s.phase, s.pwmDuty, s.adcState, s.outA, s.outB)

/-- The outcome is a next state with this property. -/
def goes {α : Type} (o : Host.Outcome α Fault Refusal) (p : α → Bool) : Bool :=
  match o with
  | .next t => p t
  | .fault _ => false
  | .refused _ => false

/-- The outcome is this refusal. -/
def stops (o : Host.Outcome State Fault Refusal) (r : Refusal) : Bool :=
  match o with
  | .next _ => false
  | .fault _ => false
  | .refused q => q == r

theorem exists_of_goes {α : Type} {o : Host.Outcome α Fault Refusal} {p : α → Bool} (h : goes o p = true) :
    ∃ t, o = .next t ∧ p t = true := by
  cases o with
  | next t => exact ⟨t, rfl, h⟩
  | fault r => cases r
  | refused r => cases h

/-! ## Ill-formed configurations (00_scope.md R2 to R6) -/

theorem test_tiny_wellformed : tiny.wf = true ∧ two.wf = true ∧ one.wf = true := by decide

theorem test_steps_zero_refused : ({ tiny with steps := 0 } : Cfg).stepsOk = false := by decide

theorem test_shift_above_width_refused : ({ tiny with shift := 3, n := 1 } : Cfg).shapeOk = false := by decide

theorem test_wrong_table_size_refused : ({ tiny with n := 8 } : Cfg).shapeOk = false := by decide

theorem test_width_zero_refused : ({ tiny with adcWidth := 0, n := 1 } : Cfg).shapeOk = false := by decide

theorem test_index_out_of_bounds_refused : ({ tiny with n := 3 } : Cfg).indexOk = false := by decide

theorem test_table_length_refused : ({ tiny with gamma := [1, 3, 100] } : Cfg).gammaOk = false := by decide

theorem test_table_range_refused :
    ({ tiny with gamma := [0, 3, 9, 100] } : Cfg).gammaOk = false ∧
      ({ tiny with gamma := [1, 3, 101, 100] } : Cfg).gammaOk = false := by decide

theorem test_table_decreasing_refused : ({ tiny with gamma := [1, 9, 3, 100] } : Cfg).gammaOk = false := by decide

theorem test_table_last_refused : ({ tiny with gamma := [1, 3, 9, 99] } : Cfg).gammaOk = false := by decide

theorem test_duty_refused :
    ({ tiny with initialDuty := 0 } : Cfg).dutyOk = false ∧ ({ tiny with initialDuty := 101 } : Cfg).dutyOk = false := by
  decide

theorem test_illformed_has_no_step :
    stops (step (State.resetWith { tiny with steps := 0 })) .illFormedConfig = true := by decide

/-! ## Words written out from the table of 30_encoding.md R50: step, slot, then z s b w p -/

theorem test_decode_step1 :
    decodeSel (0b001#3 ++ 0b0#1 ++ 0b10000#5) = .op .wdtKick ∧ decodeSel (0b001#3 ++ 0b1#1 ++ 0b10000#5) = .op .adcStart ∧
      decodeSel (0b001#3 ++ 0b0#1 ++ 0b01111#5) = .rejected .emptySlot ∧
      decodeSel (0b001#3 ++ 0b1#1 ++ 0b11000#5) = .rejected .emptySlot := by decide

theorem test_decode_step2 :
    decodeSel (0b010#3 ++ 0b0#1 ++ 0b00100#5) = .op .adcIdle ∧ decodeSel (0b010#3 ++ 0b0#1 ++ 0b01100#5) = .op .adcWait ∧
      decodeSel (0b010#3 ++ 0b0#1 ++ 0b01000#5) = .op .adcDone ∧
      decodeSel (0b010#3 ++ 0b1#1 ++ 0b01000#5) = .rejected .noSuchSlot := by decide

theorem test_decode_step3 :
    decodeSel (0b011#3 ++ 0b0#1 ++ 0b11101#5) = .op .cntInc ∧ decodeSel (0b011#3 ++ 0b0#1 ++ 0b00010#5) = .op .cntWrap := by
  decide

theorem test_decode_step4 :
    decodeSel (0b100#3 ++ 0b0#1 ++ 0b00000#5) = .op .pwmCmp ∧ decodeSel (0b100#3 ++ 0b0#1 ++ 0b11111#5) = .op .pwmCmp := by
  decide

theorem test_decode_step5 :
    decodeSel (0b101#3 ++ 0b0#1 ++ 0b00000#5) = .op .outBreakB ∧ decodeSel (0b101#3 ++ 0b0#1 ++ 0b00001#5) = .op .outBreakA ∧
      decodeSel (0b101#3 ++ 0b1#1 ++ 0b00000#5) = .op .outMakeA ∧ decodeSel (0b101#3 ++ 0b1#1 ++ 0b00001#5) = .op .outMakeB := by
  decide

theorem test_decode_other :
    decodeSel (0b111#3 ++ 0b0#1 ++ 0b00000#5) = .op .gammaLookup ∧ decodeSel (0b000#3 ++ 0b0#1 ++ 0b00000#5) = .op .reset ∧
      decodeSel (0b110#3 ++ 0b0#1 ++ 0b00000#5) = .rejected .unusedStepCode := by decide

/-- The words of spec/opcode_table.json, column match, in the table's order, and a word with a bit above bit 8. -/
theorem test_decode_table_words :
    [0x050, 0x070, 0x080, 0x08C, 0x088, 0x0C0, 0x0C2, 0x100, 0x140, 0x141, 0x160, 0x161, 0x1C0, 0x000].map
        (decodeTableWord 16) = Instr.all.map some ∧ decodeTableWord 16 0x280 = none ∧ decodeTableWord 16 0x180 = none := by
  decide

/-- The machine put where each word stands selects it, and its next step goes on, as the first one after reset. -/
theorem test_fetch_word_runs :
    Instr.all.all (fun i => selected (State.reset.withFetchWord 16 (encode i).toNat) == some i &&
      goes (step (State.reset.withFetchWord 16 (encode i).toNat)) (fun _ => true)) = true := by decide +kernel

/-! ## One step of each operation -/

/-- 95_test_vectors.md T1 and T2, slot 1.0. -/
theorem test_wdt_kick :
    goes (step { regs tiny .s10 0 false 90 .idle false false with inputs := [.tick true 0] })
      (fun t => t.events == [.wdtKick] && t.place == .s11) = true ∧
    goes (step { regs { tiny with wdtEnable := false } .s10 0 false 90 .idle false false with inputs := [.tick true 0] })
      (fun t => t.events == []) = true := by decide

/-- T4: no kick away from counter 0. -/
theorem test_no_kick : goes (step { regs tiny .s10 7 false 90 .idle false false with inputs := [.tick true 0] })
    (fun t => t.events == []) = true := by decide

/-- A1, slot 1.1. -/
theorem test_adc_start : goes (step (regs tiny .s11 0 false 90 .idle false false))
    (fun t => t.adcState == .converting && t.events == [.adcStart]) = true := by decide

/-- A6: no second start while a conversion is in flight. -/
theorem test_no_second_start : goes (step (regs tiny .s11 0 false 90 .converting false false))
    (fun t => t.adcState == .converting && t.events == []) = true := by decide

/-- A3. -/
theorem test_adc_idle : goes (step { regs tiny .s20 5 false 90 .idle false false with busy := false, raw := 3 })
    (fun t => view t == (5, false, 90, .idle, false, false) && t.events == []) = true := by decide

/-- A4. -/
theorem test_adc_wait : goes (step { regs tiny .s20 5 false 90 .converting false false with busy := true, raw := 3 })
    (fun t => view t == (5, false, 90, .converting, false, false) && t.events == [.adcPoll true]) = true := by decide

/-- A7: sample 128 under the 64-entry table. -/
theorem test_adc_done_mid :
    goes (step { regs Config.default64 .s20 0 false 90 .converting false false with busy := false, raw := 128 })
      (fun t => view t == (0, false, 23, .idle, false, false) && t.events == [.adcPoll false, .adcDone 128 32 23]) = true := by
  decide +kernel

/-- G6: the low bits are discarded, one below the last index. -/
theorem test_adc_done_shift :
    goes (step { regs Config.default64 .s20 5 false 90 .converting false false with busy := false, raw := 251 })
      (fun t => t.pwmDuty == 97 && t.adcState == .idle) = true := by decide +kernel

/-- W2, step 3. -/
theorem test_cnt_inc : goes (step (regs Config.default128 .s30 88 false 90 .idle true false))
    (fun t => view t == (89, false, 90, .idle, true, false)) = true := by decide +kernel

/-- W4, step 3. -/
theorem test_cnt_wrap : goes (step (regs Config.default128 .s30 99 false 90 .idle false false))
    (fun t => view t == (0, true, 90, .idle, false, false) && t.events == [.phaseToggle true]) = true := by decide +kernel

/-- W11: `STEPS = 1` wraps on every tick. -/
theorem test_cnt_wrap_one : goes (step (regs one .s30 0 false 90 .idle false false))
    (fun t => view t == (0, true, 90, .idle, false, false)) = true := by decide

/-- W12, step 4: the compare is strict. -/
theorem test_pwm_cmp_strict : goes (step (regs Config.default128 .s40 50 false 50 .idle true false))
    (fun t => t.active == false) = true := by decide +kernel

/-- W6, step 4: no off tick with duty 100. -/
theorem test_pwm_cmp_full : goes (step (regs Config.default128 .s40 99 true 100 .idle false true))
    (fun t => t.active == true) = true := by decide +kernel

/-- W5, slot 5.0: the old line goes off first, the other latch stays. -/
theorem test_out_break_b : goes (step (regs tiny .s50 0 false 100 .idle false true))
    (fun t => (t.outA, t.outB) == (false, false) && t.events == [.out .b false]) = true := by decide

/-- The worked example of 42_pwm_phase_driver.md R84. -/
theorem test_out_break_a : goes (step (regs tiny .s50 0 true 100 .idle true false))
    (fun t => (t.outA, t.outB) == (false, false) && t.events == [.out .a false]) = true := by decide

/-- The worked example of R85. -/
theorem test_out_make_a : goes (step { regs tiny .s51 0 false 100 .idle false false with active := true })
    (fun t => (t.outA, t.outB) == (true, false) && t.events == [.out .a true] && t.place == .s10) = true := by decide

/-- The worked example of R86. -/
theorem test_out_make_b : goes (step { regs tiny .s51 0 true 100 .idle false false with active := true })
    (fun t => (t.outA, t.outB) == (false, true) && t.events == [.out .b true] && t.active == false) = true := by decide

/-- G7 and G9: the table skips 51. -/
theorem test_gamma_lookup :
    goes (step { State.reset with lookupCall := true, idx := 93 }) (fun t => t.lookup == 50 && !t.lookupCall) = true ∧
      goes (step { State.reset with lookupCall := true, idx := 94 }) (fun t => t.lookup == 52) = true := by decide +kernel

/-- A read past the last entry returns no value (20_memory.md R33). -/
theorem test_gamma_lookup_past_end :
    stops (step { State.reset with lookupCall := true, idx := 128 }) .romIndexOutOfRange = true := by decide +kernel

/-- Z3: nothing survives. -/
theorem test_reset :
    goes (step { regs Config.default128 .s10 57 true 33 .converting false true with inputs := [.reset] })
      (fun t => view t == (0, false, 90, .idle, false, false) && t.events == [] && t.place == .s10) = true := by
  decide +kernel

/-- The worked example of 43_tick_sequence.md R95: one whole tick, with its observable events. -/
theorem test_tick_worked_example :
    goes (tick (regs Config.default128 .s10 37 false 90 .converting true false) false 186)
      (fun t => view t == (38, false, 50, .idle, true, false) &&
        observable [t] == [.adcPoll false, .adcDone 186 93 50, .out .b false, .out .a true]) = true := by decide +kernel

/-- GG2, GG3, GG5 and GG11. -/
theorem test_gamma_entries :
    (gammaEntry 128 11, gammaRound 128 12, gammaEntry 128 19, gammaEntry 64 46) = (1, 1, 2, 50) ∧ gammaGen 1 = none := by
  decide +kernel

/-! ## Witnesses: a state and operands that meet the hypotheses of each statement, at the boundaries of their ranges -/

/-- A state in which a tick can begin. -/
abbrev idleAt (c : Cfg) (counter : Nat) (phase : Bool) (duty : Nat) : State :=
  regs c .s10 counter phase duty .idle phase false

/-- The same, Converting. -/
abbrev busyAt (c : Cfg) (counter : Nat) (phase : Bool) (duty : Nat) : State :=
  regs c .s10 counter phase duty .converting false false

theorem ready_of (s : State) (h : (s.cfg.wf && s.inRange && s.place == .s10 && !s.lookupCall) = true) : s.Ready := by
  simp only [Bool.and_eq_true, Bool.not_eq_true', beq_iff_eq] at h
  exact ⟨h.1.1.1, h.1.1.2, h.1.2, h.2⟩

theorem inv_of (s : State) (h : (s.cfg.wf && s.inRange && !(s.outA && s.outB) && !(if s.phase then s.outA else s.outB) &&
    decide (s.raw < 2 ^ s.cfg.adcWidth) && decide (s.idx < s.cfg.n) && s.inputs == []) = true) : s.Inv := by
  simp only [Bool.and_eq_true, Bool.not_eq_true', beq_iff_eq, decide_eq_true_eq, State.inRange] at h
  obtain ⟨⟨⟨⟨⟨⟨hw, ⟨hc, hd⟩, hd'⟩, hx⟩, hb⟩, hr⟩, hi⟩, he⟩ := h
  exact ⟨⟨hw, hc, hd, hd', by simp [State.exclusive] at hx ⊢; exact hx⟩, fun _ => hb, hr, hi, by simp [he]⟩

/-- FetchWordIsSelected. -/
theorem witness_fetch_word :
    tiny.wf = true ∧ (regs tiny .s10 9 true 100 .idle false false).inRange = true ∧ 2 ≤ tiny.steps ∧ one.wf = true ∧
      (regs one .s10 0 true 1 .idle false false).inRange = true := by decide

/-- SlotsAreTotal: a step code without a slot 1, slot 1.0 with no reset due, slot 1.1, and a slot that is never empty. -/
theorem witness_slots :
    (2 : BitVec 3) ∉ [(1 : BitVec 3), 5, 6] ∧
      (State.At .s10 { idleAt tiny 0 false 3 with inputs := [.tick true 0] } ∧
        resetDue { idleAt tiny 0 false 3 with inputs := [.tick true 0] } = false) ∧
      State.At .s11 (regs tiny .s11 0 false 3 .converting false false) ∧
      State.At .s51 (regs tiny .s51 0 false 3 .idle false false) ∧ Place.s51 ≠ .s10 ∧ Place.s51 ≠ .s11 :=
  ⟨by decide, ⟨⟨rfl, rfl⟩, rfl⟩, ⟨rfl, rfl⟩, ⟨rfl, rfl⟩, by decide, by decide⟩

/-- WdtKickSendsRequest. -/
theorem witness_wdt_kick :
    State.At .s10 { idleAt tiny 0 false 3 with inputs := [.tick true 0] } ∧
      resetDue { idleAt tiny 0 false 3 with inputs := [.tick true 0] } = false := ⟨⟨rfl, rfl⟩, rfl⟩

/-- AdcStartBeginsConversion. -/
theorem witness_adc_start : State.At .s11 (regs tiny .s11 0 false 3 .idle false false) := ⟨rfl, rfl⟩

/-- AdcIdleDoesNothing, the tick at counter 0 included. -/
theorem witness_adc_idle :
    State.At .s20 (regs tiny .s20 5 false 3 .idle false false) ∧
      State.At .s11 (regs tiny .s11 0 false 3 .converting false false) ∧
      ∃ t, step (regs tiny .s11 0 false 3 .converting false false) = .next t ∧ t.adcState = .converting := by
  refine ⟨⟨rfl, rfl⟩, ⟨rfl, rfl⟩, ?_⟩
  obtain ⟨t, ht, hp⟩ := exists_of_goes (o := step (regs tiny .s11 0 false 3 .converting false false))
    (p := fun t => t.adcState == .converting) (by decide)
  exact ⟨t, ht, by simpa using hp⟩

/-- AdcWaitPollsOnce. -/
theorem witness_adc_wait :
    State.At .s20 { regs tiny .s20 5 false 3 .converting false false with busy := true } := ⟨rfl, rfl⟩

/-- AdcDoneWritesDuty: the least and the greatest sample, the end of the range. -/
theorem witness_adc_done :
    State.At .s20 (regs tiny .s20 5 false 3 .converting false false) ∧ tiny.wf = true ∧ 0 < 2 ^ tiny.adcWidth ∧
      2 ^ tiny.adcWidth - 1 < 2 ^ tiny.adcWidth ∧ 2 ^ tiny.adcWidth - 1 = 3 := ⟨⟨rfl, rfl⟩, by decide⟩

/-- GammaLookupReturnsEntry: index 0, the last index, and one past it. -/
theorem witness_gamma_lookup :
    tiny.wf = true ∧ 0 < tiny.n ∧ 3 = tiny.n - 1 ∧ tiny.n ≤ 4 ∧
      ({ regs tiny .s20 0 false 3 .idle false false with lookupCall := true, idx := 3 } : State).inRange = true := by
  decide

/-- CntIncAddsOne: the last tick before a wrap. -/
theorem witness_cnt_inc :
    State.At .s30 (regs tiny .s30 8 false 3 .idle false false) ∧
      (regs tiny .s30 8 false 3 .idle false false).inRange = true ∧
      selected (regs tiny .s30 8 false 3 .idle false false) = some .cntInc := ⟨⟨rfl, rfl⟩, by decide, by decide⟩

/-- CntWrapTogglesPhase: also with `STEPS = 1`. -/
theorem witness_cnt_wrap :
    State.At .s30 (regs tiny .s30 9 false 3 .idle false false) ∧ State.At .s30 (regs one .s30 0 false 3 .idle false false) ∧
      (regs one .s30 0 false 3 .idle false false).inRange = true ∧ one.steps = 1 := ⟨⟨rfl, rfl⟩, ⟨rfl, rfl⟩, by decide⟩

/-- PwmCmpComparesStrictly: counter 0 with duty 1, and a duty of exactly `STEPS` at the last counter. -/
theorem witness_pwm_cmp :
    State.At .s40 (regs tiny .s40 0 false 1 .idle false false) ∧
      (regs tiny .s40 0 false 1 .idle false false).inRange = true ∧
      (∃ t, exec .pwmCmp (regs tiny .s40 0 false 1 .idle false false) = .next t ∧ t.active = true) ∧
      (regs tiny .s40 9 false 10 .idle false false).inRange = true ∧
      (∃ t, exec .pwmCmp (regs tiny .s40 9 false 10 .idle false false) = .next t ∧ t.active = true) :=
  ⟨⟨rfl, rfl⟩, by decide, ⟨_, rfl, rfl⟩, by decide, ⟨_, rfl, rfl⟩⟩

/-- BreakMakesOtherInactive and MakeDrivesSelected. -/
theorem witness_break_and_make :
    State.At .s50 (regs tiny .s50 0 true 3 .idle true false) ∧ State.At .s51 (regs tiny .s51 0 true 3 .idle false false) :=
  ⟨⟨rfl, rfl⟩, rfl, rfl⟩

/-- ResetDiscardsState: from registers out of range. -/
theorem witness_reset :
    tiny.wf = true ∧ State.At .s10 { regs tiny .s10 77 true 0 .converting true true with inputs := [.reset] } ∧
      ({ regs tiny .s10 77 true 0 .converting true true with inputs := [.reset] } : State).inputs = .reset :: [] :=
  ⟨by decide, ⟨rfl, rfl⟩, rfl⟩

/-- OperationsFrame: the two operations that can stop. -/
theorem witness_frame :
    (∃ t, exec .adcDone (regs tiny .s20 0 false 3 .converting false false) = .next t ∧ t.pwmDuty = 1) ∧
      ∃ t, exec .gammaLookup (regs tiny .s20 0 false 3 .converting false false) = .next t ∧ t.lookup = 1 :=
  ⟨⟨_, rfl, rfl⟩, ⟨_, rfl, rfl⟩⟩

/-- StepRunsDecodedOperation: an operation in range, and `RESET` from registers out of range. -/
theorem witness_step :
    tiny.wf = true ∧ (regs tiny .s51 0 true 3 .idle false false).inRange = true ∧
      decodeSel (selOf (regs tiny .s51 0 true 3 .idle false false)) = .op .outMakeB ∧
      decodeSel (selOf { regs tiny .s10 77 true 0 .idle false false with inputs := [.reset] }) = .op .reset := by decide

/-- EmptySlotChangesNothing: slot 1.0 and slot 1.1. -/
theorem witness_empty_slot :
    tiny.wf = true ∧ ({ idleAt tiny 5 false 3 with inputs := [.tick true 0] } : State).inRange = true ∧
      selected { idleAt tiny 5 false 3 with inputs := [.tick true 0] } = none ∧
      selected (regs tiny .s11 0 false 3 .converting false false) = none := by decide

/-- IllFormedConfigHasNoStep. -/
theorem witness_ill_formed : (State.resetWith { tiny with initialDuty := 101 }).cfg.wf = false := by decide

/-- ImpossibleValuesHaveNoStep: each value just past its range. -/
theorem witness_impossible :
    tiny.wf = true ∧ resetDue (regs tiny .s30 10 false 3 .idle false false) = false ∧ tiny.steps ≤ 10 ∧
      resetDue (regs tiny .s30 0 false 0 .idle false false) = false ∧
      resetDue (regs tiny .s30 0 false 101 .idle false false) = false ∧
      (regs tiny .s20 9 false 100 .converting false false).inRange = true ∧ 2 ^ tiny.adcWidth ≤ 4 := by decide

/-- StepIsTotal and StepKeepsInv: in slot 5.1, and in a step that answers. -/
theorem witness_inv :
    (regs tiny .s51 9 true 100 .idle false true).Inv ∧
      ∃ t, step (regs tiny .s51 9 true 100 .idle false true) = .next t ∧ t.place = .s10 := by
  refine ⟨inv_of _ (by decide), ?_⟩
  obtain ⟨t, ht, hp⟩ := exists_of_goes (o := step (regs tiny .s51 9 true 100 .idle false true))
    (p := fun t => t.place == .s10) (by decide)
  exact ⟨t, ht, by simpa using hp⟩

/-- ResetSatisfiesInv. -/
theorem witness_reset_inv : one.wf = true ∧ tiny.wf = true := by decide

/-- BreakRestoresExclusion: both latches on before slot 5.0. -/
theorem witness_break_restores :
    State.At .s50 (regs tiny .s50 0 false 3 .idle true true) ∧
      ∃ t, step (regs tiny .s50 0 false 3 .idle true true) = .next t ∧ ∃ u, step t = .next u ∧ u.place = .s10 := by
  refine ⟨⟨rfl, rfl⟩, ?_⟩
  obtain ⟨t, ht, hp⟩ := exists_of_goes (o := step (regs tiny .s50 0 false 3 .idle true true))
    (p := fun t => goes (step t) (fun u => u.place == .s10)) (by decide)
  obtain ⟨u, hu, hq⟩ := exists_of_goes hp
  exact ⟨t, ht, u, hu, by simpa using hq⟩

/-- OnlyOwnersWriteRegisters and ConfigurationNeverChanges: for each register a step that changes it. -/
theorem witness_owners :
    (∃ t, step (regs tiny .s30 9 false 3 .idle false false) = .next t ∧ (t.pwmCounter != 9 && t.phase) = true) ∧
    (∃ t, step (regs tiny .s20 0 false 3 .converting false false) = .next t ∧
      (t.pwmDuty != 3 && t.adcState != .converting) = true) ∧
    (∃ t, step (regs tiny .s50 0 true 3 .idle true false) = .next t ∧ t.outA = false) ∧
    ∃ t, step (regs tiny .s50 0 false 3 .idle false true) = .next t ∧ t.outB = false :=
  ⟨exists_of_goes (p := fun t : State => t.pwmCounter != 9 && t.phase) (by decide),
    exists_of_goes (p := fun t : State => t.pwmDuty != 3 && t.adcState != .converting) (by decide),
    (exists_of_goes (p := fun t : State => !t.outA) (by decide)).imp (fun _ h => ⟨h.1, by simpa using h.2⟩),
    (exists_of_goes (p := fun t : State => !t.outB) (by decide)).imp (fun _ h => ⟨h.1, by simpa using h.2⟩)⟩

/-- ResetOnlyBetweenTicks: a step that is neither `RESET` nor a call. -/
theorem witness_not_reset :
    (∃ t, step (regs tiny .s40 0 false 3 .idle false false) = .next t ∧ (t.place == .s50) = true) ∧
      selected (regs tiny .s40 0 false 3 .idle false false) = some .pwmCmp ∧
      nextInput { idleAt tiny 0 false 3 with inputs := [.reset] } = .reset :=
  ⟨exists_of_goes (p := fun t : State => t.place == .s50) (by decide), by decide, rfl⟩

/-- UnlistedInputsAreFreeDraws. -/
theorem witness_unlisted : State.At .s10 State.reset ∧ State.reset.inputs = [] := ⟨⟨rfl, rfl⟩, rfl⟩

/-- TickClosedForm: a tick that completes a conversion with the greatest sample, a tick that waits, and one that polls
nothing. -/
theorem witness_tick :
    (busyAt tiny 9 true 3).Ready ∧ dutyInTick (busyAt tiny 9 true 3) false 3 100 ∧
      dutyInTick (busyAt tiny 9 true 3) true 77 3 ∧ (idleAt tiny 5 false 3).Ready ∧
      dutyInTick (idleAt tiny 5 false 3) false 77 3 :=
  ⟨ready_of _ (by decide), ⟨by decide, rfl⟩, rfl, ready_of _ (by decide), rfl⟩

/-- TickAlwaysCompletes, UnusedAnswersAreIgnored, TickIsSymmetricInLines. -/
theorem witness_ready :
    (busyAt one 0 true 1).Ready ∧ 3 < 2 ^ one.adcWidth ∧ (idleAt tiny 5 false 3).Ready ∧
      (idleAt tiny 5 false 3).adcState = .idle ∧ (idleAt tiny 5 false 3).pwmCounter ≠ 0 :=
  ⟨ready_of _ (by decide), by decide, ready_of _ (by decide), rfl, by decide⟩

/-- TickEndsWithTwoWrites, StartsIffIdleAtCounterZero, WatchdogEnableOnlyKicks: a tick at counter 0. -/
theorem witness_tick_next :
    (idleAt tiny 0 false 3).Ready ∧ ∃ t, tick (idleAt tiny 0 false 3) true 0 = .next t ∧ (t.events.length == 5) = true :=
  ⟨ready_of _ (by decide), exists_of_goes (p := fun t : State => t.events.length == 5) (by decide)⟩

/-- SamplingNeverDelaysOutputs: one tick completes a conversion, the other polls nothing, with the same duty after. -/
theorem witness_non_blocking :
    (busyAt tiny 5 true 9).Ready ∧ (idleAt tiny 5 true 3).Ready ∧
      (∃ t, tick (busyAt tiny 5 true 9) false 1 = .next t ∧ (t.pwmDuty == 3) = true) ∧
      ∃ t, tick (idleAt tiny 5 true 3) true 0 = .next t ∧ (t.pwmDuty == 3) = true :=
  ⟨ready_of _ (by decide), ready_of _ (by decide), exists_of_goes (p := fun t : State => t.pwmDuty == 3) (by decide),
    exists_of_goes (p := fun t : State => t.pwmDuty == 3) (by decide)⟩

/-- OutputsFollowCompare: a duty of exactly `STEPS`. -/
theorem witness_outputs :
    (idleAt tiny 8 false 10).Ready ∧ ∃ t, tick (idleAt tiny 8 false 10) true 0 = .next t ∧
      (decide (tiny.steps ≤ t.pwmDuty)) = true :=
  ⟨ready_of _ (by decide), exists_of_goes (p := fun t : State => decide (tiny.steps ≤ t.pwmDuty)) (by decide)⟩

/-- FirstTickAfterReset: both clauses. -/
theorem witness_first_tick : two.wf = true ∧ 2 ≤ two.steps ∧ one.wf = true ∧ one.steps = 1 := by decide

/-- CounterAndPhaseLaw, CompletesUnderPremise with `K = 0`: one answer, not busy, the greatest sample. -/
theorem witness_answers :
    (busyAt two 1 true 3).Ready ∧ (busyAt two 1 true 3).adcState = .converting ∧ answersOk two [(false, 3)] ∧
      completesWithin 0 [(false, 3)] ∧ 0 + 1 ≤ [(false, 3)].length := by
  refine ⟨ready_of _ (by decide), rfl, by intro a ha; simp at ha; subst ha; decide, ?_, by decide⟩
  intro before run after h hb
  cases run with
  | nil => simp
  | cons a run =>
    have : a ∈ [(false, 3)] := by rw [h]; simp
    simp at this
    have := hb a (by simp)
    simp_all

/-- HalfPeriodCountsEvents: a window that begins in the middle of a half-period. -/
theorem witness_half_period :
    (idleAt two 1 false 3).Ready ∧ [(true, 0), (true, 0)].length = two.steps ∧
      ∃ ts, ticks [(true, 0), (true, 0)] (idleAt two 1 false 3) = .next ts ∧ (ts.length == 2) = true :=
  ⟨ready_of _ (by decide), rfl, exists_of_goes (p := fun ts : List State => ts.length == 2) (by decide)⟩

/-- OnTimePerHalfPeriod: from a wrap tick, duty 1 below `STEPS = 2`, and the ADC busy. -/
theorem witness_on_time :
    (idleAt two 1 false 1).Ready ∧ (idleAt two 1 false 1).pwmCounter + 1 = two.steps ∧
      ∃ ts, ticks [(true, 0), (true, 0)] (idleAt two 1 false 1) = .next ts ∧ ∀ t ∈ ts, t.pwmDuty = 1 := by
  refine ⟨ready_of _ (by decide), rfl, ?_⟩
  obtain ⟨ts, h, hp⟩ := exists_of_goes (o := ticks [(true, 0), (true, 0)] (idleAt two 1 false 1))
    (p := fun ts => ts.all (fun t => t.pwmDuty == 1)) (by decide)
  exact ⟨ts, h, by simpa using hp⟩

/-- FirstHalfPeriodIsShort: one tick and the wrap tick with `STEPS = 2`, and the wrap tick alone with `STEPS = 1`. -/
theorem witness_first_half_period :
    (two.wf = true ∧ [(true, 0), (true, 0)].length = two.steps ∧
      ∃ ts, ticks [(true, 0), (true, 0)] (State.resetWith two) = .next ts ∧ ∀ t ∈ ts.take (two.steps - 1), t.pwmDuty = 3) ∧
    one.wf = true ∧ [(true, 0)].length = one.steps ∧
      ∃ ts, ticks [(true, 0)] (State.resetWith one) = .next ts ∧ ∀ t ∈ ts.take (one.steps - 1), t.pwmDuty = 3 := by
  obtain ⟨ts, h, hp⟩ := exists_of_goes (o := ticks [(true, 0), (true, 0)] (State.resetWith two))
    (p := fun ts => (ts.take (two.steps - 1)).all (fun t => t.pwmDuty == 3)) (by decide)
  obtain ⟨us, h', -⟩ := exists_of_goes (o := ticks [(true, 0)] (State.resetWith one)) (p := fun _ => true) (by decide)
  exact ⟨⟨by decide, rfl, ts, h, by simpa using hp⟩, by decide, rfl, us, h', by simp [one]⟩

/-- StalledAdcFreezesDuty. -/
theorem witness_stalled :
    (busyAt two 0 false 3).Ready ∧ (busyAt two 0 false 3).adcState = .converting ∧
      ∀ a ∈ [(true, 0), (true, 3)], a.1 = true := ⟨ready_of _ (by decide), rfl, by decide⟩

/-- AtMostOneConversionInFlight: a tick that starts and completes a conversion. -/
theorem witness_in_flight :
    (idleAt two 0 false 3).Ready ∧ ∃ ts, ticks [(false, 3)] (idleAt two 0 false 3) = .next ts ∧ (ts.length == 1) = true :=
  ⟨ready_of _ (by decide), exists_of_goes (p := fun ts : List State => ts.length == 1) (by decide)⟩

/-- ConversionTakesItsPolls: no busy poll, and more busy polls than `STEPS`. -/
theorem witness_polls :
    (idleAt two 0 false 3).Ready ∧ (idleAt two 0 false 3).pwmCounter = 0 ∧ (idleAt two 0 false 3).adcState = .idle ∧
      (∀ a ∈ ([] : List (Bool × Nat)), a.1 = true) ∧ (∀ a ∈ [(true, 0), (true, 0), (true, 0)], a.1 = true) ∧
      3 < 2 ^ two.adcWidth := ⟨ready_of _ (by decide), rfl, rfl, by simp, by decide, by decide⟩

/-- NewDutyUsedSameTick. -/
theorem witness_new_duty :
    (busyAt tiny 8 false 100).Ready ∧ 0 < 2 ^ tiny.adcWidth ∧ tiny.gamma[0 >>> tiny.shift]? = some 1 ∧
      ∃ t, tick (busyAt tiny 8 false 100) false 0 = .next t ∧ (t.pwmDuty == 1) = true :=
  ⟨ready_of _ (by decide), by decide, rfl, exists_of_goes (p := fun t : State => t.pwmDuty == 1) (by decide)⟩

/-- CounterWidthIsLeast: `STEPS = 1`, a power of two, and one more. -/
theorem witness_counter_width :
    0 < one.steps ∧ (cntW one, cntW { tiny with steps := 8 }, cntW { tiny with steps := 9 }) = (1, 3, 4) := by decide

/-- RomIndexIsSlice: `SHIFT = 0`, and `SHIFT = ADC_WIDTH`. -/
theorem witness_slice : tiny.shift ≤ tiny.adcWidth ∧ tiny.shift = 0 ∧ ({ tiny with shift := 2 } : Cfg).shift ≤ 2 := by decide

/-- CompareAtCmpWidth: the ends of both ranges. -/
theorem witness_compare :
    (regs tiny .s40 9 false 100 .idle false false).inRange = true ∧ (regs tiny .s40 0 false 1 .idle false false).inRange = true := by
  decide

/-- StaticIndexBound and LookupMonotoneInRange: the first and the last index, the least and the greatest sample. -/
theorem witness_table :
    tiny.wf = true ∧ 0 ≤ 3 ∧ 3 < tiny.n ∧ 3 < 2 ^ tiny.adcWidth ∧ Config.default128.wf = true := by decide +kernel

/-- GammaRoundIsLargest, GammaGenIsFormula, NoRoundingTies: the least table, its first and last index; the sizes 64, 128. -/
theorem witness_gamma_gen :
    2 ≤ 2 ∧ 0 < 2 ∧ 1 < 2 ∧ (gammaRound 2 0, gammaRound 2 1) = (0, 100) ∧ 64 ∈ [64, 128] ∧ 128 ∈ [64, 128] ∧ 0 < 64 ∧
      63 < 64 ∧ 127 < 128 ∧ 1 ≤ 1 ∧ gammaReaches 128 12 1 = true := by
  decide +kernel

/-- GeneratedTableIsLegal: with `N = 2`, `STEPS = 1` and the greatest initial duty. -/
theorem witness_generated :
    let c : Cfg := { one with shift := 1, n := 2, gamma := [1, 100], initialDuty := 100 }
    c.stepsOk = true ∧ c.shapeOk = true ∧ c.dutyOk = true ∧ gammaGen c.n = some c.gamma := by decide +kernel

end Sys2Proof.Tests
end

section
/-! SUPPORT. Everything one tick from a ready state can do, said once (spec/43_tick_sequence.md R102): slots 1.0 and 1.1,
slot 2.0, slots 3.0 to 5.1, and the three together. -/

namespace Sys2Proof.Machine

theorem inRange_iff {s : State} :
    s.inRange = true ↔ s.pwmCounter < s.cfg.steps ∧ 1 ≤ s.pwmDuty ∧ s.pwmDuty ≤ 100 := by
  simp [State.inRange, and_assoc]

theorem steps_succ_eq_next {k : Nat} {s t : State} :
    steps (k + 1) s = .next t ↔ ∃ u, step s = .next u ∧ steps k u = .next t := by
  rw [steps]
  cases step s <;> simp

/-- Within one tick `phase` is inverted exactly when the counter wraps (42_pwm_phase_driver.md R81). -/
theorem phaseAfter_one {c : Cfg} {k : Nat} (h : k < c.steps) (ph : Bool) :
    phaseAfter c k ph 1 = (ph ^^ (k + 1 == c.steps)) := by
  by_cases hk : k + 1 = c.steps
  · simp [phaseAfter, hk, Nat.div_self (show 0 < c.steps by omega)]
  · have hb : (k + 1 == c.steps) = false := by simpa using hk
    simp [phaseAfter, hb, Nat.div_eq_of_lt (show k + 1 < c.steps by omega)]

/-- The state after a tick, `d` being the duty that step 4 reads (43_tick_sequence.md R102). -/
def tickResult (s : State) (busy : Bool) (raw d : Nat) : State :=
  { s with
    pwmCounter := (s.pwmCounter + 1) % s.cfg.steps
    phase := s.phase ^^ (s.pwmCounter + 1 == s.cfg.steps)
    pwmDuty := d
    adcState := if completes s busy then .idle else if polls s then .converting else .idle
    outA := !(s.phase ^^ (s.pwmCounter + 1 == s.cfg.steps)) && decide ((s.pwmCounter + 1) % s.cfg.steps < d)
    outB := (s.phase ^^ (s.pwmCounter + 1 == s.cfg.steps)) && decide ((s.pwmCounter + 1) % s.cfg.steps < d)
    busy := false, raw := 0, idx := 0, lookup := 0, active := false
    events := tickEvents s busy raw d }

/-- The state after slots 1.0 and 1.1. -/
def afterStart (s : State) (busy : Bool) (raw : Nat) : State :=
  { s with
    place := .s20, busy := busy, raw := raw
    adcState := if polls s then .converting else .idle
    events :=
      (if s.pwmCounter = 0 ∧ s.cfg.wdtEnable = true then [.wdtKick] else []) ++
      (if s.pwmCounter = 0 ∧ s.adcState = .idle then [.adcStart] else []) }

/-- The state after slots 3.0 to 5.1. -/
def afterDrive (u : State) : State :=
  { u with
    place := .s10
    pwmCounter := (u.pwmCounter + 1) % u.cfg.steps
    phase := u.phase ^^ (u.pwmCounter + 1 == u.cfg.steps)
    outA := !(u.phase ^^ (u.pwmCounter + 1 == u.cfg.steps)) && decide ((u.pwmCounter + 1) % u.cfg.steps < u.pwmDuty)
    outB := (u.phase ^^ (u.pwmCounter + 1 == u.cfg.steps)) && decide ((u.pwmCounter + 1) % u.cfg.steps < u.pwmDuty)
    busy := false, raw := 0, idx := 0, lookup := 0, active := false
    events := u.events ++
      (if u.pwmCounter + 1 = u.cfg.steps then [.phaseToggle (!u.phase)] else []) ++
      [.out (otherLine (phaseAfter u.cfg u.pwmCounter u.phase 1)) false,
       .out (selectedLine (phaseAfter u.cfg u.pwmCounter u.phase 1))
        (decide (counterAfter u.cfg u.pwmCounter 1 < u.pwmDuty))] }

/-- Slots 1.0 and 1.1 always go on. -/
theorem tick_eq_steps_afterStart {s : State} (h : s.Ready) (busy : Bool) (raw : Nat) :
    tick s busy raw = steps 5 (afterStart s busy raw) := by
  obtain ⟨hw, hr, hp, hl⟩ := h
  have h10 := step_s10 (s := { s with inputs := .tick busy raw :: s.inputs }) hw hr hp hl rfl
  refine Eq.trans (steps_succ_of_next h10) ?_
  refine Eq.trans (steps_succ_of_next (step_s11 hw hr rfl hl)) ?_
  cases ha : s.adcState <;> simp [afterStart, polls, ha]

/-- Slots 3.0 to 5.1 always go on. -/
theorem steps_four_eq_afterDrive {u : State} (hw : u.cfg.wf = true) (hr : u.inRange = true) (hp : u.place = .s30)
    (hl : u.lookupCall = false) : steps 4 u = .next (afterDrive u) := by
  obtain ⟨hc, hd⟩ := inRange_iff.1 hr
  have hr' : ({ u with pwmCounter := (u.pwmCounter + 1) % u.cfg.steps } : State).inRange = true :=
    inRange_iff.2 ⟨Nat.mod_lt _ (Cfg.steps_pos hw), hd⟩
  refine Eq.trans (steps_succ_of_next (step_s30 hw hr hp hl)) ?_
  refine Eq.trans (steps_succ_of_next (step_s40 hw hr' rfl hl)) ?_
  refine Eq.trans (steps_succ_of_next (step_s50 hw hr' rfl hl)) ?_
  refine Eq.trans (steps_succ_of_next (step_s51 hw hr' rfl hl)) ?_
  cases hq : u.phase ^^ (u.pwmCounter + 1 == u.cfg.steps) <;>
    simp [steps, afterDrive, phaseAfter_one hc, hq, otherLine, selectedLine, counterAfter] <;> rfl

/-- A completion at slot 2.0 that goes on read a sample in range and found its entry (R52 (d), 20_memory.md R33). -/
theorem rom_of_step_s20_done {s t : State} (hp : s.place = .s20) (hl : s.lookupCall = false)
    (ha : s.adcState = .converting) (hb : s.busy = false) (h : step s = .next t) :
    s.raw < 2 ^ s.cfg.adcWidth ∧ ∃ d, romRead s.cfg (romIndex s.cfg s.raw) = some d := by
  have hs : selected s = some .adcDone := by rw [selected_s20 hp hl]; simp [ha, hb]
  obtain ⟨-, -, ⟨hn, -⟩ | ⟨i, u, hi, hu, -⟩⟩ := step_eq_next.1 h
  · rw [hs] at hn; cases hn
  · rw [hs] at hi; cases hi
    rw [takeInput_of_place (by simp [hp])] at hu
    obtain ⟨hraw, d, hd, -⟩ := execAdcDone_eq_next.1 hu
    exact ⟨hraw, d, hd⟩

/-- A tick that polls nothing, or is answered busy, reads the duty as it was. -/
theorem dutyInTick_of_not_completes {s : State} {busy : Bool} (h : completes s busy = false) (raw d : Nat) :
    dutyInTick s busy raw d ↔ d = s.pwmDuty := by
  simp [dutyInTick, h]

/-- A tick that completes a conversion reads the ROM. -/
theorem dutyInTick_of_completes {s : State} (hw : s.cfg.wf = true) {busy : Bool} (h : completes s busy = true)
    (raw d : Nat) :
    dutyInTick s busy raw d ↔ raw < 2 ^ s.cfg.adcWidth ∧ romRead s.cfg (romIndex s.cfg raw) = some d := by
  simp only [dutyInTick, h, if_true]
  refine and_congr_right fun hraw => ?_
  rw [romRead, romIndex, if_pos (Cfg.index_lt hw hraw)]

theorem dutyInTick_range {s : State} (h : s.Ready) {busy : Bool} {raw d : Nat} (hd : dutyInTick s busy raw d) :
    1 ≤ d ∧ d ≤ 100 := by
  cases hc : completes s busy
  · rw [(dutyInTick_of_not_completes hc raw d).1 hd]
    exact (inRange_iff.1 h.in_range).2
  · exact romRead_range h.configured ((dutyInTick_of_completes h.configured hc raw d).1 hd).2

/-- The state after slots 1.0 to 2.0, `d` being the duty that step 4 reads. -/
def afterSample (s : State) (busy : Bool) (raw d : Nat) : State :=
  { afterStart s busy raw with
    place := .s30
    pwmDuty := d
    adcState := if completes s busy then .idle else if polls s then .converting else .idle
    idx := if completes s busy then romIndex s.cfg raw else s.idx
    lookup := if completes s busy then d else s.lookup
    events := (afterStart s busy raw).events ++
      (if polls s then [.adcPoll busy] else []) ++
      (if completes s busy then [.adcDone raw (raw >>> s.cfg.shift) d] else []) }

theorem afterDrive_afterSample {s : State} (h : s.Ready) (busy : Bool) (raw d : Nat) :
    afterDrive (afterSample s busy raw d) = tickResult s busy raw d := by
  have hp : s.place = .s10 := h.boundary.1
  simp [afterDrive, afterSample, afterStart, tickResult, tickEvents, hp]

/-- Slot 2.0 goes on with the duty that the tick reads. -/
theorem step_afterStart {s : State} (h : s.Ready) {busy : Bool} {raw d : Nat} (hd : dutyInTick s busy raw d) :
    step (afterStart s busy raw) = .next (afterSample s busy raw d) := by
  obtain ⟨hw, hr, -, hl⟩ := h
  have ha : (afterStart s busy raw).adcState = if polls s then .converting else .idle := rfl
  cases hp : polls s
  case false =>
    have hc : completes s busy = false := by simp [completes, hp]
    obtain rfl := (dutyInTick_of_not_completes hc raw d).1 hd
    rw [step_s20_idle (s := afterStart s busy raw) hw hr rfl hl (by simp [ha, hp])]
    simp [afterSample, afterStart, hp, hc]
  case true =>
    rw [hp] at ha
    cases busy
    case true =>
      have hc : completes s true = false := by simp [completes]
      obtain rfl := (dutyInTick_of_not_completes hc raw d).1 hd
      rw [step_s20_wait (s := afterStart s true raw) hw hr rfl hl ha rfl]
      simp [afterSample, afterStart, hp, hc]
    case false =>
      have hc : completes s false = true := by simp [completes, hp]
      obtain ⟨hraw, hrom⟩ := (dutyInTick_of_completes hw hc raw d).1 hd
      rw [step_s20_done (s := afterStart s false raw) hw hr rfl hl ha rfl hraw hrom]
      simp [afterSample, afterStart, hp, hc, romIndex]

/-- If slot 2.0 goes on, the tick reads some duty. -/
theorem dutyInTick_of_step_afterStart {s t : State} (h : s.Ready) {busy : Bool} {raw : Nat}
    (ht : step (afterStart s busy raw) = .next t) : ∃ d, dutyInTick s busy raw d := by
  cases hc : completes s busy
  case false => exact ⟨s.pwmDuty, (dutyInTick_of_not_completes hc raw _).2 rfl⟩
  case true =>
    obtain ⟨hp, hb⟩ : polls s = true ∧ busy = false := by simpa [completes] using hc
    obtain ⟨hraw, d, hrom⟩ := rom_of_step_s20_done (s := afterStart s busy raw) rfl h.boundary.2
      (by simp [afterStart, hp]) hb ht
    exact ⟨d, (dutyInTick_of_completes h.configured hc raw d).2 ⟨hraw, hrom⟩⟩

/-- The whole effect of a tick that reads the duty `d` (43_tick_sequence.md R102). -/
theorem tick_of_dutyInTick {s : State} (h : s.Ready) {busy : Bool} {raw d : Nat} (hd : dutyInTick s busy raw d) :
    tick s busy raw = .next (tickResult s busy raw d) := by
  have hr : (afterSample s busy raw d).inRange = true :=
    inRange_iff.2 ⟨(inRange_iff.1 h.in_range).1, dutyInTick_range h hd⟩
  rw [tick_eq_steps_afterStart h, steps_succ_of_next (step_afterStart h hd), ← afterDrive_afterSample h]
  exact steps_four_eq_afterDrive h.configured hr rfl h.boundary.2

/-- Everything a tick from a ready state can do (43_tick_sequence.md R102). -/
theorem tick_eq_next {s t : State} (h : s.Ready) {busy : Bool} {raw : Nat} :
    tick s busy raw = .next t ↔ ∃ d, dutyInTick s busy raw d ∧ t = tickResult s busy raw d := by
  constructor
  · intro ht
    obtain ⟨u, hu, -⟩ := steps_succ_eq_next.1 (tick_eq_steps_afterStart h busy raw ▸ ht)
    obtain ⟨d, hd⟩ := dutyInTick_of_step_afterStart h hu
    rw [tick_of_dutyInTick h hd] at ht
    cases ht
    exact ⟨d, hd, rfl⟩
  · rintro ⟨d, hd, rfl⟩
    exact tick_of_dutyInTick h hd

end Sys2Proof.Machine
end

section
/-! Proofs of the statements on the scope of the configuration (spec/00_scope.md R1, R7). -/

namespace Sys2Proof.Machine

/-! ## No step writes the configuration -/

theorem step_cfg {s t : State} (h : step s = .next t) : t.cfg = s.cfg := by
  obtain ⟨-, -, ⟨-, rfl⟩ | ⟨i, u, -, hu, rfl⟩⟩ := step_eq_next.1 h
  · rw [(advance_registers _ _).1, takeInput_cfg]
  · rw [(advance_registers _ _).1, (exec_frame hu).1, takeInput_cfg]

/-- Settles O28: neither taking the input, nor an operation, nor going on to the next slot writes `Cfg`. -/
theorem configurationNeverChanges : Obligations.ConfigurationNeverChanges := by
  intro s t h
  have hc : t.cfg = s.cfg := step_cfg h
  exact ⟨hc, fun k => by rw [hc]⟩

/-! ## The watchdog enable -/

/-- The same state under a configuration with the given `WDT_ENABLE`. -/
def State.withWdtEnable (s : State) (on : Bool) : State := { s with cfg := { s.cfg with wdtEnable := on } }

/-- Well-formedness and the ranges do not consult `WDT_ENABLE` (00_scope.md R8). -/
theorem ready_withWdtEnable {s : State} (h : s.Ready) (on : Bool) : (s.withWdtEnable on).Ready :=
  ⟨h.configured, h.in_range, h.boundary⟩

/-- A tick's list is the kick, if it is due, and the list of the same tick with the watchdog off. -/
theorem tickEvents_eq_kick_append (s : State) (busy : Bool) (raw d : Nat) :
    tickEvents s busy raw d =
      (if s.pwmCounter = 0 ∧ s.cfg.wdtEnable = true then [.wdtKick] else []) ++
        tickEvents (s.withWdtEnable false) busy raw d := by
  have hoff : ¬ ((s.withWdtEnable false).pwmCounter = 0 ∧ (s.withWdtEnable false).cfg.wdtEnable = true) := by
    simp [State.withWdtEnable]
  rw [tickEvents, tickEvents, if_neg hoff]
  simp only [List.append_assoc, List.nil_append]
  rfl

theorem wdtKick_mem_tickEvents (s : State) (busy : Bool) (raw d : Nat) :
    Event.wdtKick ∈ tickEvents s busy raw d ↔ s.pwmCounter = 0 ∧ s.cfg.wdtEnable = true := by
  simp [tickEvents, List.mem_ite_nil_right]

theorem wdtKick_notMem_of_disabled (s : State) (busy : Bool) (raw d : Nat) :
    Event.wdtKick ∉ tickEvents (s.withWdtEnable false) busy raw d := by
  simp [wdtKick_mem_tickEvents, State.withWdtEnable]

/-- Without its kick, a tick's list is the list of the same tick with the watchdog off. -/
theorem filter_ne_wdtKick_tickEvents (s : State) (busy : Bool) (raw d : Nat) :
    (tickEvents s busy raw d).filter (· ≠ .wdtKick) = tickEvents (s.withWdtEnable false) busy raw d := by
  have hrest : (tickEvents (s.withWdtEnable false) busy raw d).filter (· ≠ .wdtKick) =
      tickEvents (s.withWdtEnable false) busy raw d :=
    List.filter_eq_self.2 fun e he =>
      decide_eq_true (ne_of_mem_of_not_mem he (wdtKick_notMem_of_disabled s busy raw d))
  rw [tickEvents_eq_kick_append, List.filter_append, hrest]
  split <;> simp

/-- Settles O36: by what a tick can do, `WDT_ENABLE` enters the result in the kick alone. -/
theorem watchdogEnableOnlyKicks : Obligations.WatchdogEnableOnlyKicks := by
  refine ⟨fun s t busy raw h ht => ?_, rfl⟩
  obtain ⟨d, hd, rfl⟩ := (tick_eq_next h).1 ht
  refine ⟨wdtKick_mem_tickEvents s busy raw d, fun on => ?_⟩
  have hu : tick (s.withWdtEnable on) busy raw = .next (tickResult (s.withWdtEnable on) busy raw d) :=
    tick_of_dutyInTick (ready_withWdtEnable h on) hd
  have hevents : (tickEvents (s.withWdtEnable on) busy raw d).filter (· ≠ .wdtKick) =
      (tickEvents s busy raw d).filter (· ≠ .wdtKick) :=
    (filter_ne_wdtKick_tickEvents _ busy raw d).trans (filter_ne_wdtKick_tickEvents s busy raw d).symm
  exact ⟨_, hu, rfl, rfl, rfl, rfl, rfl, rfl, hevents⟩

end Sys2Proof.Machine
end

section
/-! Proofs of the statements on the sampling state machine (spec/41_sampling_state_machine.md R72, R76, R78). -/

namespace Sys2Proof.Machine

/-! ## Waiting -/

/-- Settles O9: the guard by what slot 2.0 selects, the effect by the meaning of `ADC_WAIT`. -/
theorem adcWaitPollsOnce : Obligations.AdcWaitPollsOnce := by
  refine ⟨fun s ⟨hp, hl⟩ => ?_, fun _ => rfl⟩
  rw [selected_s20 hp hl]
  cases s.adcState <;> cases s.busy <;> decide

/-! ## Starting -/

/-- A tick's list holds its start request once if the tick begins Idle at counter 0, and otherwise not at all. -/
theorem count_adcStart_tickEvents (s : State) (busy : Bool) (raw d : Nat) :
    (tickEvents s busy raw d).count .adcStart = if s.pwmCounter = 0 ∧ s.adcState = .idle then 1 else 0 := by
  simp [tickEvents, List.count_append, apply_ite (List.count Event.adcStart)]

/-- Settles O35: by what a tick can do, its list is `tickEvents`, in which the starts are counted. -/
theorem startsIffIdleAtCounterZero : Obligations.StartsIffIdleAtCounterZero := by
  intro s t busy raw h ht
  obtain ⟨d, -, rfl⟩ := (tick_eq_next h).1 ht
  have hcount : (tickResult s busy raw d).events.count .adcStart =
      if s.pwmCounter = 0 ∧ s.adcState = .idle then 1 else 0 := count_adcStart_tickEvents s busy raw d
  rw [← List.count_pos_iff, hcount]
  split <;> simp [*]

/-! ## Steps 3 to 5 do not wait for the ADC -/

/-- The two output writes of a tick that begins with the counter `k` and the phase `ph` and reads the duty `d`. -/
def outputWrites (c : Cfg) (k : Nat) (ph : Bool) (d : Nat) : List Event :=
  [.out (otherLine (phaseAfter c k ph 1)) false,
   .out (selectedLine (phaseAfter c k ph 1)) (decide (counterAfter c k 1 < d))]

/-- The last two events of a tick are its output writes, which the ADC reaches through the duty alone. -/
theorem drop_tickEvents_eq_outputWrites (s : State) (busy : Bool) (raw d : Nat) :
    (tickEvents s busy raw d).drop ((tickEvents s busy raw d).length - 2) =
      outputWrites s.cfg s.pwmCounter s.phase d := by
  rw [tickEvents, List.length_append]
  exact List.drop_left' (Nat.add_sub_cancel ..).symm

/-- Settles O37: by what a tick can do, counter and phase come from the configuration, the counter and the phase before
it, and the outputs and their writes from these and the duty that step 4 reads. -/
theorem samplingNeverDelaysOutputs : Obligations.SamplingNeverDelaysOutputs := by
  intro s s' t t' b b' r r' h h' hcfg hcounter hphase ht ht'
  obtain ⟨d, -, rfl⟩ := (tick_eq_next h).1 ht
  obtain ⟨d', -, rfl⟩ := (tick_eq_next h').1 ht'
  refine ⟨by simp only [tickResult, hcfg, hcounter], by simp only [tickResult, hcfg, hcounter, hphase], ?_⟩
  intro (hduty : d' = d)
  refine ⟨by simp only [tickResult, hcfg, hcounter, hphase, hduty],
    by simp only [tickResult, hcfg, hcounter, hphase, hduty], ?_⟩
  calc (tickEvents s' b' r' d').drop ((tickEvents s' b' r' d').length - 2)
      = outputWrites s'.cfg s'.pwmCounter s'.phase d' := drop_tickEvents_eq_outputWrites s' b' r' d'
    _ = outputWrites s.cfg s.pwmCounter s.phase d := by rw [hcfg, hcounter, hphase, hduty]
    _ = (tickEvents s b r d).drop ((tickEvents s b r d).length - 2) := (drop_tickEvents_eq_outputWrites s b r d).symm

end Sys2Proof.Machine
end

section
/-! Proofs of the statements on the PWM phase driver (spec/42_pwm_phase_driver.md R80 to R82). -/

namespace Sys2Proof.Machine

/-! ## The counter's width -/

/-- The search for a width succeeds if the last width it tries does. -/
theorem le_two_pow_widthFrom {steps : Nat} :
    ∀ {fuel w : Nat}, steps ≤ 2 ^ (w + fuel) → steps ≤ 2 ^ widthFrom steps fuel w
  | 0, _, h => h
  | fuel + 1, w, h => by
    rw [widthFrom]
    split
    · assumption
    · exact le_two_pow_widthFrom (by rwa [Nat.add_right_comm])

/-- `CNT_W` bits hold every counter value below `STEPS` (00_scope.md §4). -/
theorem steps_le_two_pow_cntW (c : Cfg) : c.steps ≤ 2 ^ cntW c :=
  le_two_pow_widthFrom <| calc
    c.steps ≤ 2 ^ c.steps := Nat.lt_two_pow_self.le
    _ ≤ 2 ^ (1 + c.steps) := Nat.pow_le_pow_right two_pos (Nat.le_add_left ..)

/-! ## What slot 3.0 selects -/

theorem selected_cntWrap_iff {s : State} (h : s.At .s30) :
    selected s = some .cntWrap ↔ s.pwmCounter + 1 = s.cfg.steps := by
  rw [selected_s30 h.1 h.2]
  split <;> simp [*]

theorem selected_cntInc_iff {s : State} (h : s.At .s30) :
    selected s = some .cntInc ↔ s.pwmCounter + 1 ≠ s.cfg.steps := by
  rw [selected_s30 h.1 h.2]
  split <;> simp [*]

/-- Settles O12: the guard by what slot 3.0 selects; the counter is below `STEPS` and not the last one, and `STEPS` is at
most `2^CNT_W`. -/
theorem cntIncAddsOne : Obligations.CntIncAddsOne := by
  refine ⟨fun _ => selected_cntInc_iff, fun _ => rfl, fun s h hr hs => ?_⟩
  have hlt : s.pwmCounter < s.cfg.steps := (inRange_iff.1 hr).1
  have hne : s.pwmCounter + 1 ≠ s.cfg.steps := (selected_cntInc_iff h).1 hs
  have hw : s.cfg.steps ≤ 2 ^ cntW s.cfg := steps_le_two_pow_cntW s.cfg
  refine ⟨?_, ?_, ?_⟩ <;> omega

/-- Settles O13: the guard by what slot 3.0 selects; with `STEPS = 1` the only counter in range is 0. -/
theorem cntWrapTogglesPhase : Obligations.CntWrapTogglesPhase := by
  refine ⟨fun _ => selected_cntWrap_iff, fun _ => rfl, fun s h hr h1 => ?_⟩
  have hlt : s.pwmCounter < s.cfg.steps := (inRange_iff.1 hr).1
  have h0 : s.pwmCounter = 0 := by omega
  exact ⟨h0, (selected_cntWrap_iff h).2 (by rw [h0, h1])⟩

/-! ## The compare -/

/-- What `PWM_CMP` leaves in `active`. -/
theorem active_of_exec_pwmCmp {s t : State} (h : exec .pwmCmp s = .next t) :
    t.active = true ↔ s.pwmCounter < s.pwmDuty := by
  cases h
  exact decide_eq_true_iff

/-- Settles O14: slot 4.0 has one operation; the corner cases of the compare follow from `pwm_counter < STEPS` and
`1 <= pwm_duty`. -/
theorem pwmCmpComparesStrictly : Obligations.PwmCmpComparesStrictly := by
  refine ⟨fun s h => selected_s40 h.1 h.2, fun _ => rfl, fun s t hr ht => ?_⟩
  obtain ⟨hlt, hpos, -⟩ := inRange_iff.1 hr
  rw [active_of_exec_pwmCmp ht]
  exact ⟨fun h0 => h0 ▸ hpos, hlt.trans_le, fun h1 => by rw [h1, Nat.lt_one_iff]⟩

end Sys2Proof.Machine
end

section
/-! Everything a step can do that is no slot of a listed tick, and the invariant that every step keeps (spec/10_state.md
R21, 42_pwm_phase_driver.md R87). -/

namespace Sys2Proof.Machine

/-! ## Steps outside the slots of a listed tick -/

/-- A call of `GAMMA_LOOKUP` on its own. -/
theorem step_call {s : State} (hw : s.cfg.wf = true) (hr : s.inRange = true) (hl : s.lookupCall = true) {d : Nat}
    (hd : romRead s.cfg s.idx = some d) : step s = .next { s with lookup := d, lookupCall := false } :=
  step_of_op (i := .gammaLookup) (u := { s with lookup := d }) hw hr (selected_call hl)
    (by rw [takeInput_of_call hl]; exact execGammaLookup_eq_next.2 ⟨d, hd, rfl⟩)

/-- A reset that is due comes in with the transients and the event list cleared. -/
theorem takeInput_of_resetDue {s : State} (h : resetDue s = true) :
    takeInput s = { clearTransients (dropInput s) with events := [] } := by
  obtain ⟨hp, hl, hi⟩ := (resetDue_iff s).1 h
  simp [takeInput, atBoundary, hp, hl, hi]

/-- A reset that is due runs whatever the registers hold. -/
theorem step_of_resetDue {s : State} (hw : s.cfg.wf = true) (h : resetDue s = true) :
    step s = .next (resetRegisters { clearTransients (dropInput s) with events := [] }) := by
  have hs := selected_event h
  exact step_eq_next.2 ⟨hw, .inr hs, .inr ⟨_, _, hs, rfl, by rw [takeInput_of_resetDue h]; rfl⟩⟩

/-- Slot 1.0 of any tick, listed or drawn freely. -/
theorem step_of_nextInput_tick {s : State} (hw : s.cfg.wf = true) (hr : s.inRange = true) (h : s.At .s10) {b : Bool}
    {raw : Nat} (hi : nextInput s = .tick b raw) :
    step s = .next { dropInput s with
      busy := b, raw := raw, place := .s11,
      events := if s.pwmCounter = 0 ∧ s.cfg.wdtEnable = true then [.wdtKick] else [] } := by
  obtain ⟨hp, hl⟩ := h
  have hn : resetDue s = false := by simp [resetDue, hi]
  have ht : takeInput s = { dropInput s with busy := b, raw := raw, events := [] } := by
    simp [takeInput, atBoundary, hp, hl, hi]
  by_cases hk : s.pwmCounter = 0 ∧ s.cfg.wdtEnable = true
  · rw [step_of_op hw hr (by rw [selected_s10 hp hl hn, if_pos hk]) rfl, ht,
      advance_slot (by decide) (by decide) (by simp [hp])]
    simp [emit, hk, hp, Place.next]
  · rw [step_of_empty hw hr (by rw [selected_s10 hp hl hn, if_neg hk]), ht, advance_empty (by simp [hp])]
    simp [hk, hp, Place.next]

/-! ## What the environment sends -/

/-- The environment's next input keeps the port's contract if the listed ones do (20_memory.md R43). -/
theorem nextInput_inContract {s : State} (h : ∀ e ∈ s.inputs, e.inContract s.cfg) : (nextInput s).inContract s.cfg := by
  unfold nextInput
  split
  case h_1 e rest hi => exact h e (by simp [hi])
  case h_2 =>
    split
    · trivial
    · exact Nat.mod_lt _ (by positivity)

theorem mem_inputs_of_dropInput {s : State} {e : Input} (h : e ∈ (dropInput s).inputs) : e ∈ s.inputs := by
  unfold dropInput at h
  split at h
  case h_1 hi => rw [hi]; exact List.mem_cons_of_mem _ h
  case h_2 => exact h

/-! ## The invariant -/

/-- With the line that `phase` does not select inactive, not both are active. -/
theorem exclusive_of_otherOut {s : State} (h : s.otherOut = false) : s.exclusive := by
  rintro ⟨ha, hb⟩
  cases hq : s.phase <;> simp [State.otherOut, hq, ha, hb] at h

theorem State.Safe.inRange {s : State} (h : s.Safe) : s.inRange = true :=
  inRange_iff.2 ⟨h.counter_lt, h.duty_pos, h.duty_le⟩

/-- RESET's registers are safe (D2 to D4), and nothing waits for an operation. -/
theorem inv_after_reset {s : State} (h : s.Inv) (hr : resetDue s = true) :
    (resetRegisters { clearTransients (dropInput s) with events := [] }).Inv := by
  have hw : s.cfg.wf = true := h.safe.configured
  have hp : s.place = .s10 := ((resetDue_iff s).1 hr).1
  obtain ⟨hd1, hd2⟩ := Cfg.duty_range hw
  exact {
    safe := ⟨by simpa, by simpa using Cfg.steps_pos hw, by simpa, by simpa, by simp [State.exclusive]⟩
    broken := by simp
    raw_lt := by simp
    idx_lt := by simpa using Cfg.n_pos hw
    inputs_ok := fun e he => by simpa using h.inputs_ok e (mem_inputs_of_dropInput he) }

/-- A tick that comes in brings a sample that keeps the port's contract. -/
theorem inv_after_tick_begins {s : State} (h : s.Inv) {b : Bool} {raw : Nat} (hi : nextInput s = .tick b raw)
    (es : List Event) : State.Inv { dropInput s with busy := b, raw := raw, place := .s11, events := es } := by
  have hraw : raw < 2 ^ s.cfg.adcWidth := by simpa [hi, Input.inContract] using nextInput_inContract h.inputs_ok
  obtain ⟨⟨hw, hc, hd1, hd2, hx⟩, -, -, hidx, hin⟩ := h
  exact {
    safe := ⟨by simpa, by simpa, by simpa, by simpa, by simpa [State.exclusive] using hx⟩
    broken := nofun
    raw_lt := by simpa
    idx_lt := by simpa
    inputs_ok := fun e he => by simpa using hin e (mem_inputs_of_dropInput he) }

/-- From a state of the invariant in slot 2.0 the step goes on: the sample that waits has its entry, which is a duty in
range. -/
theorem exists_step_inv_s20 {s : State} (h : s.Inv) (hp : s.place = .s20) (hl : s.lookupCall = false) :
    ∃ t, step s = .next t ∧ t.Inv := by
  have hr : s.inRange = true := h.safe.inRange
  obtain ⟨⟨hw, hc, hd1, hd2, hx⟩, -, hraw, hidx, hin⟩ := h
  cases ha : s.adcState
  case idle => exact ⟨_, step_s20_idle hw hr hp hl ha, ⟨hw, hc, hd1, hd2, hx⟩, nofun, hraw, hidx, hin⟩
  case converting =>
    cases hb : s.busy
    case true => exact ⟨_, step_s20_wait hw hr hp hl ha hb, ⟨hw, hc, hd1, hd2, hx⟩, nofun, hraw, hidx, hin⟩
    case false =>
      have hi : romIndex s.cfg s.raw < s.cfg.n := Cfg.index_lt hw hraw
      obtain ⟨d, hd, h1, h100⟩ := romRead_of_lt hw hi
      exact ⟨_, step_s20_done hw hr hp hl ha hb hraw hd, ⟨hw, hc, h1, h100, hx⟩, nofun, hraw, hi, hin⟩

/-- From a state of the invariant in slot 5.0 the step goes on, and it makes the line that is not selected inactive. -/
theorem exists_step_inv_s50 {s : State} (h : s.Inv) (hp : s.place = .s50) (hl : s.lookupCall = false) :
    ∃ t, step s = .next t ∧ t.Inv := by
  have hr : s.inRange = true := h.safe.inRange
  obtain ⟨⟨hw, hc, hd1, hd2, -⟩, -, hraw, hidx, hin⟩ := h
  have hother : (if s.phase then if s.phase then false else s.outA else if s.phase then s.outB else false) = false := by
    cases s.phase <;> rfl
  exact ⟨_, step_s50 hw hr hp hl, ⟨hw, hc, hd1, hd2, exclusive_of_otherOut hother⟩, fun _ => hother, hraw, hidx, hin⟩

/-- From a state of the invariant in slot 5.1 the step goes on; the line that is not selected was already inactive. -/
theorem exists_step_inv_s51 {s : State} (h : s.Inv) (hp : s.place = .s51) (hl : s.lookupCall = false) :
    ∃ t, step s = .next t ∧ t.Inv := by
  have hr : s.inRange = true := h.safe.inRange
  obtain ⟨⟨hw, hc, hd1, hd2, -⟩, hbroken, -, -, hin⟩ := h
  have hother : (if s.phase then if s.phase then s.outA else s.active else if s.phase then s.active else s.outB) =
      false := by
    have := hbroken hp
    cases hq : s.phase <;> simpa [hq] using this
  exact ⟨_, step_s51 hw hr hp hl, ⟨hw, hc, hd1, hd2, exclusive_of_otherOut hother⟩, nofun, Nat.two_pow_pos _,
    Cfg.n_pos hw, hin⟩

/-- From every state of the invariant there is a step, and it keeps the invariant. -/
theorem exists_step_inv {s : State} (h : s.Inv) : ∃ t, step s = .next t ∧ t.Inv := by
  have hr : s.inRange = true := h.safe.inRange
  have hinv := h
  obtain ⟨⟨hw, hc, hd1, hd2, hx⟩, hbroken, hraw, hidx, hin⟩ := h
  cases hl : s.lookupCall
  case true =>
    obtain ⟨d, hd, -⟩ := romRead_of_lt hw hidx
    exact ⟨_, step_call hw hr hl hd, ⟨hw, hc, hd1, hd2, hx⟩, hbroken, hraw, hidx, hin⟩
  case false =>
    cases hp : s.place
    case s10 =>
      cases hi : nextInput s
      case tick b raw => exact ⟨_, step_of_nextInput_tick hw hr ⟨hp, hl⟩ hi, inv_after_tick_begins hinv hi _⟩
      case reset =>
        have hdue : resetDue s = true := (resetDue_iff s).2 ⟨hp, hl, hi⟩
        exact ⟨_, step_of_resetDue hw hdue, inv_after_reset hinv hdue⟩
    case s11 => exact ⟨_, step_s11 hw hr hp hl, ⟨hw, hc, hd1, hd2, hx⟩, nofun, hraw, hidx, hin⟩
    case s20 => exact exists_step_inv_s20 hinv hp hl
    case s30 =>
      exact ⟨_, step_s30 hw hr hp hl, ⟨hw, Nat.mod_lt _ (Cfg.steps_pos hw), hd1, hd2, hx⟩, nofun, hraw, hidx, hin⟩
    case s40 => exact ⟨_, step_s40 hw hr hp hl, ⟨hw, hc, hd1, hd2, hx⟩, nofun, hraw, hidx, hin⟩
    case s50 => exact exists_step_inv_s50 hinv hp hl
    case s51 => exact exists_step_inv_s51 hinv hp hl

/-- Settles O25: by cases on the slot; that the line not selected is already inactive before slot 5.1 is what carries
mutual exclusion through the make write. -/
theorem stepKeepsInv : Obligations.StepKeepsInv := by
  intro s t h ht
  obtain ⟨u, hu, hinv⟩ := exists_step_inv h
  rw [hu] at ht
  cases ht
  exact hinv

/-- Settles O23: the step that keeps the invariant exists. -/
theorem stepIsTotal : Obligations.StepIsTotal := fun _ h =>
  let ⟨t, ht, _⟩ := exists_step_inv h
  ⟨t, ht⟩

/-- The state after reset satisfies the invariant. -/
theorem inv_resetWith {c : Cfg} (hw : c.wf = true) : (State.resetWith c).Inv where
  safe := ⟨hw, Cfg.steps_pos hw, (Cfg.duty_range hw).1, (Cfg.duty_range hw).2, exclusive_of_otherOut rfl⟩
  broken := nofun
  raw_lt := Nat.two_pow_pos _
  idx_lt := Cfg.n_pos hw
  inputs_ok := nofun

theorem default128_wf : Config.default128.wf = true := by decide +kernel

/-- Settles O24: RESET's values are in range under a well-formed configuration, and the defaults are one. -/
theorem resetSatisfiesInv : Obligations.ResetSatisfiesInv :=
  ⟨fun _ => inv_resetWith, inv_resetWith default128_wf, rfl⟩

end Sys2Proof.Machine
end

section
/-! Proofs of the statements on the step (spec/30_encoding.md R50 to R52, 10_state.md §1, 60_exceptions.md R111). -/

namespace Sys2Proof.Machine

/-! ## What a slot selects, and when a step is refused -/

/-- Between the slots of a tick neither the called function nor the event is selected. -/
theorem selected_slot {s : State} {i : Instr} (hl : s.lookupCall = false) (hr : resetDue s = false)
    (h : selected s = some i) : i ≠ .reset ∧ i ≠ .gammaLookup := by
  cases hp : s.place
  case s10 => rw [selected_s10 hp hl hr] at h; split at h <;> cases h; decide
  case s11 => rw [selected_s11 hp hl] at h; split at h <;> cases h; decide
  case s20 => rw [selected_s20 hp hl] at h; split at h; (cases h; decide); split at h <;> cases h <;> decide
  case s30 => rw [selected_s30 hp hl] at h; split at h <;> cases h <;> decide
  case s40 => rw [selected_s40 hp hl] at h; cases h; decide
  case s50 => rw [selected_s50 hp hl] at h; split at h <;> cases h <;> decide
  case s51 => rw [selected_s51 hp hl] at h; split at h <;> cases h <;> decide

/-- RESET is selected exactly when it is due. -/
theorem selected_reset_iff {s : State} : selected s = some .reset ↔ resetDue s = true := by
  refine ⟨fun h => ?_, selected_event⟩
  by_contra hr
  cases hl : s.lookupCall
  · exact (selected_slot hl (by simpa using hr) h).1 rfl
  · rw [selected_call hl] at h; cases h

/-- Registers that cannot occur give no step, unless RESET is due (30_encoding.md R52; log 10). -/
theorem step_of_not_inRange {s : State} (hw : s.cfg.wf = true) (hd : resetDue s = false) (hr : s.inRange = false) :
    step s = .refused .registerOutOfRange := by
  have hs : selected s ≠ some .reset := by simp [selected_reset_iff, hd]
  simp [step, hw, hr, hs]

/-- What a step that goes on, RESET aside, says of the state it began in. -/
theorem wf_inRange_of_step {s t : State} (hd : resetDue s = false) (h : step s = .next t) :
    s.cfg.wf = true ∧ s.inRange = true := by
  obtain ⟨hw, hr | hs, -⟩ := step_eq_next.1 h
  · exact ⟨hw, hr⟩
  · rw [selected_reset_iff, hd] at hs; cases hs

/-- After an operation of a slot, or an empty slot, the next slot comes. -/
theorem advance_place {ran : Option Instr} (h1 : ran ≠ some .reset) (h2 : ran ≠ some .gammaLookup) (s : State) :
    (advance ran s).place = s.place.next ∧ (advance ran s).lookupCall = s.lookupCall := by
  unfold advance
  split
  · exact absurd rfl h1
  · exact absurd rfl h2
  · split
    case isTrue hp => simp [hp, Place.next]
    case isFalse => simp

/-- Settles O29: RESET is selected when it is due; every other operation of a slot goes on to the next slot. -/
theorem resetOnlyBetweenTicks : Obligations.ResetOnlyBetweenTicks := by
  refine ⟨fun s => ?_, fun s t h hs hl => ?_⟩
  · rw [selected_reset_iff, resetDue_iff, State.At, and_assoc]
  · have hr : resetDue s = false := by simpa [selected_reset_iff] using hs
    obtain ⟨-, -, ⟨-, rfl⟩ | ⟨i, u, hi, hu, rfl⟩⟩ := step_eq_next.1 h
    · obtain ⟨hp, hc⟩ := advance_place (ran := none) (by simp) (by simp) (takeInput s)
      rw [hp, hc, takeInput_place, takeInput_lookupCall]
      exact ⟨rfl, hl⟩
    · obtain ⟨h1, h2⟩ := selected_slot hl hr hi
      obtain ⟨hp, hc⟩ := advance_place (ran := some i) (by simpa using h1) (by simpa using h2) u
      obtain ⟨-, hup, huc, -⟩ := exec_frame hu
      rw [hp, hc, hup, huc, takeInput_place, takeInput_lookupCall]
      exact ⟨rfl, hl⟩

/-- Settles O22: the registers' check stands before the operation, the sample's in `ADC_DONE`. -/
theorem impossibleValuesHaveNoStep : Obligations.ImpossibleValuesHaveNoStep := by
  refine ⟨fun s hw hd hbad => step_of_not_inRange hw hd ?_, fun s hw hr ⟨hp, hl⟩ ha hb hraw => ?_⟩
  · rw [Bool.eq_false_iff, ne_eq, inRange_iff]
    omega
  · have hs : selected s = some .adcDone := by rw [selected_s20 hp hl]; simp [ha, hb]
    have hx : exec .adcDone s = .refused .rawOutOfRange := by
      simp [exec, execAdcDone, readResult, rawInRange, Nat.not_lt.2 hraw]
    simp [step, hw, hr, hs, takeInput_of_place (s := s) (by simp [hp]), hx]

/-- Settles O19: a word that decodes to an operation whose extra condition holds is what `selected` answers. -/
theorem stepRunsDecodedOperation : Obligations.StepRunsDecodedOperation := by
  intro s i hw hr hdec hwdt
  have hen : enabled s.cfg i = true := by
    cases i
    case wdtKick => exact hwdt rfl
    all_goals rfl
  have hs : selected s = some i := by simp [selected, hdec, hen]
  simp [step, hw, hs, hr]

/-! ## The empty slot -/

/-- Only slots 1.0 and 1.1 of a tick can be empty. -/
theorem place_of_selected_none {s : State} (h : selected s = none) :
    s.lookupCall = false ∧ (s.place = .s10 ∨ s.place = .s11) := by
  cases hl : s.lookupCall
  case true => rw [selected_call hl] at h; cases h
  case false =>
    refine ⟨rfl, ?_⟩
    cases hp : s.place
    case s10 => exact .inl rfl
    case s11 => exact .inr rfl
    case s20 => rw [selected_s20 hp hl] at h; cases h
    case s30 => rw [selected_s30 hp hl] at h; cases h
    case s40 => rw [selected_s40 hp hl] at h; cases h
    case s50 => rw [selected_s50 hp hl] at h; cases h
    case s51 => rw [selected_s51 hp hl] at h; cases h

/-- A tick, and a reset too, begins with an empty event list (43_tick_sequence.md R101). -/
theorem takeInput_events {s : State} (h : s.At .s10) : (takeInput s).events = [] := by
  simp only [takeInput, atBoundary, h.1, h.2]
  cases nextInput s <;> rfl

/-- Settles O20: the step takes the input and goes on; neither writes a register. -/
theorem emptySlotChangesNothing : Obligations.EmptySlotChangesNothing := by
  intro s hw hr hs
  obtain ⟨hl, hp⟩ := place_of_selected_none hs
  obtain ⟨hcfg, hcounter, hphase, hduty, hadc, ha, hb, hev, hin, -⟩ := advance_registers none (takeInput s)
  refine ⟨hp, _, step_of_empty hw hr hs, by simp [hcfg], by simp [hcounter], by simp [hphase], by simp [hduty],
    by simp [hadc], by simp [ha], by simp [hb], ?_, fun h10 => ?_, fun h11 => ?_⟩
  · rw [(advance_place (by simp) (by simp) _).1, takeInput_place]
  · rw [hev, takeInput_events ⟨h10, hl⟩]
  · rw [takeInput_of_place (by simp [h11]), advance_empty (by simp [h11])]
    exact ⟨rfl, rfl, rfl, rfl⟩

/-! ## Who writes what -/

/-- Settles O18: operation by operation, from what each meaning answers. -/
theorem operationsFrame : Obligations.OperationsFrame := by
  intro i s t h
  cases i
  case adcDone => obtain ⟨-, d, -, rfl⟩ := execAdcDone_eq_next.1 h; simp
  case gammaLookup => obtain ⟨d, -, rfl⟩ := execGammaLookup_eq_next.1 h; simp
  all_goals
    cases h
    simp [writeLine]

/-- An operation outside the owners of a register leaves it. -/
theorem some_mem_owners_of_ne {α : Type} {i : Instr} {owners : List Instr} {x y : α} (hframe : i ∉ owners → x = y)
    (hne : x ≠ y) : some i ∈ owners.map some :=
  List.mem_map_of_mem (by_contra fun h => hne (hframe h))

/-- Settles O27: an empty slot writes no register, and an operation only those it owns (OperationsFrame). -/
theorem onlyOwnersWriteRegisters : Obligations.OnlyOwnersWriteRegisters := by
  intro s t h
  obtain ⟨-, -, ⟨-, rfl⟩ | ⟨i, u, hi, hu, rfl⟩⟩ := step_eq_next.1 h
  · obtain ⟨-, hcounter, hphase, hduty, hadc, ha, hb, -⟩ := advance_registers none (takeInput s)
    simp [hcounter, hphase, hduty, hadc, ha, hb]
  · obtain ⟨-, hcounter, hphase, hduty, hadc, ha, hb, -⟩ := advance_registers (some i) u
    obtain ⟨fcounter, fphase, fduty, fadc, fa, fb, -⟩ := operationsFrame i _ _ hu
    rw [hi, hcounter, hphase, hduty, hadc, ha, hb]
    simp only [takeInput_pwmCounter, takeInput_phase, takeInput_pwmDuty, takeInput_adcState, takeInput_outA,
      takeInput_outB] at fcounter fphase fduty fadc fa fb
    exact ⟨some_mem_owners_of_ne fcounter, some_mem_owners_of_ne fphase, some_mem_owners_of_ne fduty,
      some_mem_owners_of_ne fadc, some_mem_owners_of_ne fa, some_mem_owners_of_ne fb⟩

/-- After slot 5.0 the line that is not selected is inactive, whatever it was before. -/
theorem otherOut_of_step_s50 {s t : State} (h : s.At .s50) (ht : step s = .next t) :
    t.At .s51 ∧ t.otherOut = false := by
  obtain ⟨hp, hl⟩ := h
  obtain ⟨hw, hr⟩ := wf_inRange_of_step (resetDue_of_place (by simp [hp])) ht
  rw [step_s50 hw hr hp hl] at ht
  cases ht
  exact ⟨⟨rfl, hl⟩, by cases hq : s.phase <;> simp [State.otherOut]⟩

/-- Slot 5.1 leaves the line that is not selected. -/
theorem otherOut_of_step_s51 {s t : State} (h : s.At .s51) (ht : step s = .next t) : t.otherOut = s.otherOut := by
  obtain ⟨hp, hl⟩ := h
  obtain ⟨hw, hr⟩ := wf_inRange_of_step (resetDue_of_place (by simp [hp])) ht
  rw [step_s51 hw hr hp hl] at ht
  cases ht
  cases hq : s.phase <;> simp [State.otherOut, hq]

/-- Settles O26: the break write of slot 5.0 makes the line that is not selected inactive, and slot 5.1 leaves that
line. -/
theorem breakRestoresExclusion : Obligations.BreakRestoresExclusion := by
  intro s t u h ht hu
  obtain ⟨h51, hother⟩ := otherOut_of_step_s50 h ht
  have hother' : u.otherOut = false := (otherOut_of_step_s51 h51 hu).trans hother
  exact ⟨exclusive_of_otherOut hother, hother, exclusive_of_otherOut hother', hother'⟩

/-! ## The events of the environment -/

/-- Settles O17: RESET is due, so the step takes it; every field is cleared or written, but those of the environment. -/
theorem resetDiscardsState : Obligations.ResetDiscardsState := by
  refine ⟨fun _ => rfl, fun s rest hw ⟨hp, hl⟩ hi => ?_⟩
  have hdue : resetDue s = true := (resetDue_iff s).2 ⟨hp, hl, nextInput_cons s _ _ hi⟩
  rw [step_of_resetDue hw hdue, dropInput_cons s _ _ hi]
  simp [resetRegisters, portOut, clearTransients, State.resetWith, hp, hl]

/-- Settles O30: with nothing listed the input is drawn; whether a reset or a tick comes is the free value's answer. -/
theorem unlistedInputsAreFreeDraws : Obligations.UnlistedInputsAreFreeDraws := by
  intro s ⟨hp, hl⟩ hi
  have hnext : nextInput s = if Config.freeReset s.draws then .reset
      else .tick (Config.freeBusy s.draws) (Config.freeRaw s.draws % 2 ^ s.cfg.adcWidth) := by simp [nextInput, hi]
  have hdrop : dropInput s = { s with draws := s.draws + 1 } := by simp [dropInput, hi]
  have hlt : Config.freeRaw s.draws % 2 ^ s.cfg.adcWidth < 2 ^ s.cfg.adcWidth := Nat.mod_lt _ (by positivity)
  refine ⟨hnext, ?_⟩
  cases hf : Config.freeReset s.draws <;>
    simp [takeInput, atBoundary, hp, hl, hnext, hdrop, hf, hi, hlt, clearTransients]

/-! ## Ill-formed configurations -/

/-- What `nonDecreasing` checks, entry by entry. -/
theorem nonDecreasing_iff : ∀ {l : List Nat},
    Cfg.nonDecreasing l = true ↔ ∀ i d e, l[i]? = some d → l[i + 1]? = some e → d ≤ e
  | [] => by simp [Cfg.nonDecreasing]
  | [a] => by simp [Cfg.nonDecreasing]
  | a :: b :: rest => by
    have ih := nonDecreasing_iff (l := b :: rest)
    rw [Cfg.nonDecreasing, Bool.and_eq_true, decide_eq_true_iff, ih]
    constructor
    · rintro ⟨hab, h⟩ (_ | i) d e hd he
      · cases hd; cases he; exact hab
      · exact h i d e hd he
    · exact fun h => ⟨h 0 a b rfl rfl, fun i d e hd he => h (i + 1) d e hd he⟩

/-- Every entry of a list is in range exactly when the entry at every index is. -/
theorem all_in_range_iff {l : List Nat} {n : Nat} (hn : l.length = n) :
    (∀ d ∈ l, 1 ≤ d ∧ d ≤ 100) ↔ ∀ i < n, ∃ d, l[i]? = some d ∧ 1 ≤ d ∧ d ≤ 100 := by
  subst hn
  constructor
  · exact fun h i hi => ⟨l[i], List.getElem?_eq_getElem hi, h _ (List.getElem_mem hi)⟩
  · intro h d hd
    obtain ⟨i, hi, rfl⟩ := List.mem_iff_getElem.1 hd
    obtain ⟨e, he, hr⟩ := h i hi
    rw [List.getElem?_eq_getElem hi, Option.some_inj] at he
    exact he ▸ hr

/-- R5, written out entry by entry. -/
theorem gammaOk_iff {c : Cfg} : c.gammaOk = true ↔ c.gamma.length = c.n ∧
    (∀ i < c.n, ∃ d, c.gamma[i]? = some d ∧ 1 ≤ d ∧ d ≤ 100) ∧
    (∀ i d e, c.gamma[i]? = some d → c.gamma[i + 1]? = some e → d ≤ e) ∧ c.gamma[c.n - 1]? = some 100 := by
  simp only [Cfg.gammaOk, Bool.and_eq_true, decide_eq_true_eq, List.all_eq_true, nonDecreasing_iff, and_assoc,
    List.getLast?_eq_getElem?]
  refine and_congr_right fun hn => ?_
  rw [all_in_range_iff hn, hn]

/-- Settles O21: the configuration's check is the first of a step, and each check says what its rule says. -/
theorem illFormedConfigHasNoStep : Obligations.IllFormedConfigHasNoStep := by
  refine ⟨fun s hw => by simp [step, hw], fun c => ?_⟩
  simp only [Cfg.wf_iff, Cfg.stepsOk, Cfg.shapeOk, Cfg.indexOk, Cfg.dutyOk, gammaOk_iff, Bool.and_eq_true,
    decide_eq_true_eq, and_assoc]

end Sys2Proof.Machine
end

section
/-! Proofs of the statements on the widths and on the ROM's lookup (spec/00_scope.md §4, 30_encoding.md R48,
40_gamma_table.md R64). -/

namespace Sys2Proof.Machine

/-! ## Widths -/

/-- The search for a width only goes up. -/
theorem le_widthFrom (steps : Nat) : ∀ fuel w : Nat, w ≤ widthFrom steps fuel w
  | 0, _ => le_rfl
  | fuel + 1, w => by
    rw [widthFrom]
    split
    · exact le_rfl
    · exact (Nat.le_succ w).trans (le_widthFrom steps fuel (w + 1))

/-- The search for a width stops at the first one that is wide enough. -/
theorem widthFrom_le {steps : Nat} : ∀ {fuel w v : Nat}, w ≤ v → steps ≤ 2 ^ v → widthFrom steps fuel w ≤ v
  | 0, _, _, hwv, _ => hwv
  | fuel + 1, w, v, hwv, hv => by
    rw [widthFrom]
    split
    case isTrue => exact hwv
    case isFalse hw =>
      have hne : w ≠ v := by rintro rfl; exact hw hv
      exact widthFrom_le (by omega) hv

/-- Settles O50: the search begins at 1, only goes up, and stops at the first width that is enough. -/
theorem counterWidthIsLeast : Obligations.CounterWidthIsLeast := fun c _ =>
  ⟨le_widthFrom _ _ 1, steps_le_two_pow_cntW c, fun _ hw h => widthFrom_le hw h⟩

/-- Settles O52: the counter fits `CNT_W` bits, the duty 7, and so both fit `CMP_W` bits. -/
theorem compareAtCmpWidth : Obligations.CompareAtCmpWidth := by
  intro s hr
  obtain ⟨hc, -, hd⟩ := inRange_iff.1 hr
  have hcw : s.pwmCounter < 2 ^ cntW s.cfg := hc.trans_le (steps_le_two_pow_cntW s.cfg)
  have hc' : s.pwmCounter < 2 ^ cmpW s.cfg := hcw.trans_le (Nat.pow_le_pow_right two_pos (le_max_left ..))
  have hd7 : s.pwmDuty < 128 := by omega
  have hd' : s.pwmDuty < 2 ^ cmpW s.cfg := hd7.trans_le (Nat.pow_le_pow_right two_pos (le_max_right _ 7))
  simp [compareAtWidth, pwmActive, BitVec.ult, Nat.mod_eq_of_lt hcw, Nat.mod_eq_of_lt hc', Nat.mod_eq_of_lt hd',
    Nat.mod_eq_of_lt hd7]

/-! ## The ROM index -/

/-- Without its low `s` bits a value of `w` bits has `w - s` bits. -/
theorem shiftRight_lt_two_pow {w s raw : Nat} (hs : s ≤ w) (hr : raw < 2 ^ w) : raw >>> s < 2 ^ (w - s) := by
  rw [Nat.shiftRight_eq_div_pow, Nat.div_lt_iff_lt_mul (by positivity), ← pow_add]
  rwa [Nat.sub_add_cancel hs]

/-- The greatest value of `w` bits gives the greatest of `w - s` bits. -/
theorem two_pow_sub_one_shiftRight {w s : Nat} (hs : s ≤ w) : (2 ^ w - 1) >>> s = 2 ^ (w - s) - 1 := by
  have hw : 2 ^ w = 2 ^ s * 2 ^ (w - s) := by rw [← pow_add, Nat.add_sub_cancel' hs]
  rw [Nat.shiftRight_eq_div_pow, hw]
  simpa using Nat.mul_sub_div 0 (2 ^ s) (2 ^ (w - s)) (by positivity)

/-- Settles O51: the slice is the shift modulo `2^IDX_W`, and the shift is below that. -/
theorem romIndexIsSlice : Obligations.RomIndexIsSlice := by
  intro c raw hs
  have hlt : romIndex c raw.toNat < 2 ^ idxW c := shiftRight_lt_two_pow hs raw.isLt
  refine ⟨?_, hlt, fun h0 => by simp [romIndex, h0]⟩
  rw [romIndexSlice, BitVec.extractLsb'_toNat]
  exact (Nat.mod_eq_of_lt hlt).symm

/-- The greatest sample reads the last entry (00_scope.md R4). -/
theorem romIndex_last {c : Cfg} (hw : c.wf = true) : (2 ^ c.adcWidth - 1) >>> c.shift = c.n - 1 := by
  obtain ⟨-, hs, hn⟩ := Cfg.shape hw
  rw [hn, two_pow_sub_one_shiftRight hs]

/-- Settles O53: the index of a sample in range is an index of the ROM, where every read answers. -/
theorem staticIndexBound : Obligations.StaticIndexBound := by
  refine fun c hw => ⟨romIndex_last hw, fun raw hraw => ?_⟩
  have hi : romIndex c raw < c.n := Cfg.index_lt hw hraw
  obtain ⟨d, hd, -⟩ := romRead_of_lt hw hi
  exact ⟨hi, by rw [hd]; rfl⟩

/-! ## The lookup -/

/-- The last entry is 100 (00_scope.md R5). -/
theorem romRead_last {c : Cfg} (hw : c.wf = true) : romRead c (c.n - 1) = some 100 := by
  obtain ⟨hl, -, -, h100⟩ := Cfg.gamma_facts hw
  rw [romRead, if_pos (Nat.sub_lt (Cfg.n_pos hw) one_pos), ← hl, ← List.getLast?_eq_getElem?, h100]

/-- The lookup is non-decreasing in the index (40_gamma_table.md R64). -/
theorem romRead_mono {c : Cfg} (hw : c.wf = true) {i j d e : Nat} (hij : i ≤ j) (hd : romRead c i = some d)
    (he : romRead c j = some e) : d ≤ e := by
  obtain ⟨hi, rfl⟩ := List.getElem?_eq_some_iff.1 (romRead_eq_some hd).2
  obtain ⟨hj, rfl⟩ := List.getElem?_eq_some_iff.1 (romRead_eq_some he).2
  have hs := List.pairwise_iff_getElem.1 (Cfg.pairwise_of_nonDecreasing (Cfg.gamma_facts hw).2.2.1)
  rcases hij.eq_or_lt with rfl | hlt
  · exact le_rfl
  · exact hs i j hi hj hlt

/-- Settles O54: every index of the ROM has an entry in range, and the entries do not decrease; the index of a sample
does not decrease either. -/
theorem lookupMonotoneInRange : Obligations.LookupMonotoneInRange := by
  have hidx : ∀ (c : Cfg) (i j : Nat), c.wf = true → i ≤ j → j < c.n →
      ∃ d d', romRead c i = some d ∧ romRead c j = some d' ∧ 1 ≤ d ∧ d ≤ d' ∧ d' ≤ 100 := by
    intro c i j hw hij hj
    obtain ⟨d, hd, h1, -⟩ := romRead_of_lt hw (hij.trans_lt hj)
    obtain ⟨e, he, -, h100⟩ := romRead_of_lt hw hj
    exact ⟨d, e, hd, he, h1, romRead_mono hw hij hd he, h100⟩
  refine ⟨hidx, fun c r r' hw hr hr' => hidx c _ _ hw ?_ (Cfg.index_lt hw hr')⟩
  simpa only [romIndex, Nat.shiftRight_eq_div_pow] using Nat.div_le_div_right hr

end Sys2Proof.Machine
end

section
/-! Proofs of the statements on the encoding and on the operations of slots 1.0 to 2.0, 5.0 and 5.1
(spec/30_encoding.md R49 to R51, 41_sampling_state_machine.md R70 to R73, 42_pwm_phase_driver.md R83 to R86). -/

namespace Sys2Proof.Machine

/-! ## The decoder -/

/-- Settles O1: fourteen closed words. -/
theorem tableWordsDecode : Obligations.TableWordsDecode := by
  unfold Obligations.TableWordsDecode
  decide

/-- Settles O3: fourteen operations. -/
theorem decodeOfEncode : Obligations.DecodeOfEncode := by
  intro i
  cases i <;> decide

/-- No two rows of the table differ in the operation and match one word: where two patterns agree under both masks, the
rows are one. -/
theorem opcodeRows_disjoint : ∀ r ∈ opcodeRows, ∀ r' ∈ opcodeRows,
    r.pattern &&& r'.mask = r'.pattern &&& r.mask → r = r' := by decide

/-- A word matches one row at most. -/
theorem row_unique {w : SelWord} {r r' : OpcodeRow} (hr : r ∈ opcodeRows) (hr' : r' ∈ opcodeRows)
    (h : w &&& r.mask = r.pattern) (h' : w &&& r'.mask = r'.pattern) : r = r' := by
  refine opcodeRows_disjoint r hr r' hr' ?_
  rw [← h, ← h', BitVec.and_assoc, BitVec.and_assoc, BitVec.and_comm r.mask]

/-- The decoder answers an operation exactly when some row matches, and then that row's. -/
theorem decodeSel_eq_op_iff {w : SelWord} {i : Instr} :
    decodeSel w = .op i ↔ ∃ r ∈ opcodeRows, r.instr = i ∧ w &&& r.mask = r.pattern := by
  unfold decodeSel
  split
  case h_1 r hf =>
    have hr : r ∈ opcodeRows := List.mem_of_find?_eq_some hf
    have hm : w &&& r.mask = r.pattern := by simpa [OpcodeRow.selects] using List.find?_some hf
    rw [Decoded.op.injEq]
    constructor
    · exact fun hi => ⟨r, hr, hi, hm⟩
    · rintro ⟨r', hr', hi, hm'⟩
      rw [row_unique hr hr' hm hm', hi]
  case h_2 hf =>
    have hnone : ∀ r ∈ opcodeRows, w &&& r.mask ≠ r.pattern := by
      simpa [OpcodeRow.selects] using List.find?_eq_none.1 hf
    exact ⟨nofun, fun ⟨r, hr, _, hm⟩ => absurd hm (hnone r hr)⟩

/-- A word is rejected exactly when it is no operation's. -/
theorem decodeSel_rejected_iff {w : SelWord} : (∃ why, decodeSel w = .rejected why) ↔ ∀ i, decodeSel w ≠ .op i := by
  cases decodeSel w <;> simp

/-- Settles O2: the decoder looks for a row that matches, and one word matches one row at most. -/
theorem decodeIsMatchUnderMask : Obligations.DecodeIsMatchUnderMask := by
  refine ⟨fun w i => decodeSel_eq_op_iff, fun w => decodeSel_rejected_iff.trans ?_⟩
  simp only [ne_eq, decodeSel_eq_op_iff]
  exact ⟨fun h r hr hm => h r.instr ⟨r, hr, rfl, hm⟩, fun h i ⟨r, hr, _, hm⟩ => h r hr hm⟩

/-- Step code 6 selects nothing (30_encoding.md R49). -/
theorem decode_step6 (slot : Bool) (cv : CV) : decodeSel (selWord 6 slot cv) = .rejected .unusedStepCode := by
  rcases cv with ⟨z, s, b, w, p⟩; revert slot z s b w p; decide

/-- Only steps 1 and 5 have a slot 1 (30_encoding.md R49). -/
theorem decode_slot1 (stepCode : BitVec 3) (h : stepCode ∉ [(1 : BitVec 3), 5, 6]) (cv : CV) :
    decodeSel (selWord stepCode true cv) = .rejected .noSuchSlot := by
  rcases cv with ⟨z, s, b, w, p⟩; revert stepCode z s b w p; decide

theorem adcState_ne_idle_iff {a : AdcState} : a ≠ .idle ↔ a = .converting := by
  cases a <;> decide

/-- Settles O4: by what each slot decodes to and selects. -/
theorem slotsAreTotal : Obligations.SlotsAreTotal := by
  refine ⟨fun cv => ⟨⟨_, decode_slot20 cv⟩, ⟨_, decode_slot30 cv⟩, ⟨_, decode_slot40 cv⟩, ⟨_, decode_slot50 cv⟩,
    ⟨_, decode_slot51 cv⟩⟩, fun cv => ⟨?_, ?_⟩, decode_step6, fun c cv h => decode_slot1 c h cv,
    fun s ⟨hp, hl⟩ hr => ?_, fun s ⟨hp, hl⟩ => ?_, fun s p ⟨hp, hl⟩ h10 h11 => ?_⟩
  · rw [show decodeSel (selWord 1 false cv) = _ from decode_slot10 cv]; cases cv.z <;> decide
  · rw [show decodeSel (selWord 1 true cv) = _ from decode_slot11 cv]; cases cv.z <;> cases cv.s <;> decide
  · rw [selected_s10 hp hl hr, ite_eq_right_iff]
    simp [imp_iff_not_or]
  · rw [selected_s11 hp hl, ite_eq_right_iff, ← adcState_ne_idle_iff]
    simp [imp_iff_not_or]
  · refine Option.ne_none_iff_exists'.1 fun hn => ?_
    rcases (place_of_selected_none hn).2 with h | h
    · exact h10 (hp.symm.trans h)
    · exact h11 (hp.symm.trans h)

/-! ## A word laid where the machine selects -/

theorem withFetchWord_encode (s : State) (i : Instr) :
    s.withFetchWord 16 (encode i).toNat = selectNext s (encode i) := by
  have h : BitVec.ofNat 9 ((encode i).toNat % 2 ^ 16) = encode i := by cases i <;> decide
  rw [State.withFetchWord, h]

theorem withZ_true (s : State) : withZ s true = { s with pwmCounter := 0 } := by
  unfold withZ
  split
  case isTrue h =>
    have h0 : s.pwmCounter = 0 := by simpa [zFlag] using h
    rw [← h0]
  case isFalse => rfl

/-- `withW` moves the counter only, so that `w` reads as asked, and leaves it in range. -/
theorem withW_spec {s : State} (hr : s.inRange = true) {w : Bool} (hw : w = false → 2 ≤ s.cfg.steps) :
    ∃ k, withW s w = { s with pwmCounter := k } ∧ k < s.cfg.steps ∧ (k + 1 = s.cfg.steps ↔ w = true) := by
  have hc : s.pwmCounter < s.cfg.steps := (inRange_iff.1 hr).1
  unfold withW
  split
  case isTrue h => exact ⟨s.pwmCounter, rfl, hc, by rw [← h, wFlag, beq_iff_eq]⟩
  case isFalse =>
    cases w
    · have := hw rfl
      exact ⟨0, rfl, by omega, by simp; omega⟩
    · exact ⟨s.cfg.steps - 1, rfl, by omega, by simp; omega⟩

/-- Settles O5: per operation, what `selectNext` sets is what the slot of the operation selects it by. -/
theorem fetchWordIsSelected : Obligations.FetchWordIsSelected := by
  intro i s hw hr hsteps
  rw [withFetchWord_encode]
  obtain ⟨hc, hd⟩ := inRange_iff.1 hr
  have h0 : State.inRange { s with pwmCounter := 0 } = true := inRange_iff.2 ⟨Cfg.steps_pos hw, hd⟩
  cases i
  case wdtKick =>
    have e : selectNext s (encode .wdtKick) = withZ { s with
      place := .s10, lookupCall := false, inputs := .tick false 0 :: s.inputs,
      cfg := { s.cfg with wdtEnable := s.cfg.wdtEnable || true } } true := rfl
    rw [e, withZ_true]
    refine ⟨?_, hw, h0⟩
    rw [selected_s10 rfl rfl rfl]
    simp
  case adcStart =>
    have e : selectNext s (encode .adcStart) = withS (withZ { s with place := .s11, lookupCall := false } true) false :=
      rfl
    rw [e, withZ_true]
    refine ⟨?_, hw, h0⟩
    rw [selected_s11 rfl rfl]
    simp [withS]
  case adcIdle => exact ⟨selected_s20 rfl rfl, hw, hr⟩
  case adcWait => exact ⟨selected_s20 rfl rfl, hw, hr⟩
  case adcDone => exact ⟨selected_s20 rfl rfl, hw, hr⟩
  case cntInc =>
    have e : selectNext s (encode .cntInc) = withW { s with place := .s30, lookupCall := false } false := rfl
    obtain ⟨k, hk, hlt, hwrap⟩ := withW_spec (s := { s with place := .s30, lookupCall := false }) (w := false) hr
      (fun _ => hsteps rfl)
    rw [e, hk]
    refine ⟨?_, hw, inRange_iff.2 ⟨hlt, hd⟩⟩
    rw [selected_s30 rfl rfl, if_neg (by simpa using hwrap)]
  case cntWrap =>
    have e : selectNext s (encode .cntWrap) = withW { s with place := .s30, lookupCall := false } true := rfl
    obtain ⟨k, hk, hlt, hwrap⟩ := withW_spec (s := { s with place := .s30, lookupCall := false }) (w := true) hr nofun
    rw [e, hk]
    refine ⟨?_, hw, inRange_iff.2 ⟨hlt, hd⟩⟩
    rw [selected_s30 rfl rfl, if_pos (hwrap.2 rfl)]
  case pwmCmp => exact ⟨selected_s40 rfl rfl, hw, hr⟩
  case outBreakB => exact ⟨selected_s50 rfl rfl, hw, hr⟩
  case outBreakA => exact ⟨selected_s50 rfl rfl, hw, hr⟩
  case outMakeA => exact ⟨selected_s51 rfl rfl, hw, hr⟩
  case outMakeB => exact ⟨selected_s51 rfl rfl, hw, hr⟩
  case gammaLookup => exact ⟨selected_call rfl, hw, hr⟩
  case reset => exact ⟨selected_event rfl, hw, hr⟩

/-! ## Operations -/

/-- Settles O6: the guard by what slot 1.0 selects. -/
theorem wdtKickSendsRequest : Obligations.WdtKickSendsRequest := by
  refine ⟨fun s ⟨hp, hl⟩ hr => ?_, fun _ => rfl⟩
  rw [selected_s10 hp hl hr]
  split <;> simp [*]

/-- Settles O7: the guard by what slot 1.1 selects. -/
theorem adcStartBeginsConversion : Obligations.AdcStartBeginsConversion := by
  refine ⟨fun s ⟨hp, hl⟩ => ?_, fun _ => rfl⟩
  rw [selected_s11 hp hl]
  split <;> simp [*]

theorem selected_adcIdle_iff {s : State} (h : s.At .s20) : selected s = some .adcIdle ↔ s.adcState = .idle := by
  rw [selected_s20 h.1 h.2]
  cases s.adcState <;> cases s.busy <;> decide

/-- Settles O8: with the counter at 0, slot 1.1 leaves the machine Converting, and then slot 2.0 selects a poll. -/
theorem adcIdleDoesNothing : Obligations.AdcIdleDoesNothing := by
  refine ⟨fun _ => selected_adcIdle_iff, fun _ => rfl, fun s t ⟨hp, hl⟩ h0 ht => ?_⟩
  obtain ⟨hw, hr⟩ := wf_inRange_of_step (resetDue_of_place (by simp [hp])) ht
  rw [step_s11 hw hr hp hl] at ht
  intro hs
  have hat : t.At .s20 := by cases ht; exact ⟨rfl, hl⟩
  have hconv : t.adcState = .converting := by cases ht; exact if_pos h0
  rw [selected_adcIdle_iff hat, hconv] at hs
  cases hs

/-- Settles O10: the sample's index is one of the ROM, whose entry there is a duty in range; the corners are the first
and the last index. -/
theorem adcDoneWritesDuty : Obligations.AdcDoneWritesDuty := by
  refine ⟨fun s ⟨hp, hl⟩ => ?_, fun s hw hraw => ?_⟩
  · rw [selected_s20 hp hl]
    cases s.adcState <;> cases s.busy <;> decide
  · have hi : s.raw >>> s.cfg.shift < s.cfg.n := Cfg.index_lt hw hraw
    obtain ⟨d, hd, h1, h100⟩ := romRead_of_lt hw hi
    have hx : exec .adcDone s = _ := execAdcDone_eq_next.2 ⟨hraw, d, hd, rfl⟩
    refine ⟨d, (romRead_eq_some hd).2, h1, h100, hi, ?_, fun h0 => by simp [h0], fun hmax => ?_⟩
    · rw [hx]
      simp [romIndex]
    · have hlast : s.raw >>> s.cfg.shift = s.cfg.n - 1 := by rw [hmax, romIndex_last hw]
      refine ⟨hlast, ?_⟩
      rw [hlast, romRead_last hw] at hd
      exact (Option.some.inj hd).symm

/-- Settles O11: an index of the ROM has an entry in range, an index outside it none. -/
theorem gammaLookupReturnsEntry : Obligations.GammaLookupReturnsEntry := by
  refine ⟨fun s hw hi => ?_, fun s hi => ?_⟩
  · obtain ⟨d, hd, h1, h100⟩ := romRead_of_lt hw hi
    refine ⟨d, (romRead_eq_some hd).2, h1, h100, fun hlast => ?_, execGammaLookup_eq_next.2 ⟨d, hd, rfl⟩,
      fun hr hl => step_call hw hr hl hd⟩
    rw [hlast, romRead_last hw] at hd
    exact (Option.some.inj hd).symm
  · simp [exec, execGammaLookup, callLookup, romRead, Nat.not_lt.2 hi]

/-- Settles O15: the guards by what slot 5.0 selects. -/
theorem breakMakesOtherInactive : Obligations.BreakMakesOtherInactive := by
  refine ⟨fun s ⟨hp, hl⟩ => ?_, fun _ => rfl, fun _ => rfl⟩
  rw [selected_s50 hp hl]
  cases s.phase <;> decide

/-- Settles O16: the guards by what slot 5.1 selects. -/
theorem makeDrivesSelected : Obligations.MakeDrivesSelected := by
  refine ⟨fun s ⟨hp, hl⟩ => ?_, fun _ => rfl, fun _ => rfl⟩
  rw [selected_s51 hp hl]
  cases s.phase <;> decide

end Sys2Proof.Machine
end

section
/-! Proofs of the statements on the generated table (spec/40_gamma_table.md R61 to R64). -/

namespace Sys2Proof.Machine

/-! ## The search -/

/-- What the search answers passes the test. -/
theorem largestUpTo_passes {p : Nat → Bool} (h0 : p 0 = true) : ∀ b, p (largestUpTo p b) = true
  | 0 => h0
  | b + 1 => by
    rw [largestUpTo]
    split
    · assumption
    · exact largestUpTo_passes h0 b

/-- No candidate up to the bound that passes is greater. -/
theorem le_largestUpTo {p : Nat → Bool} {k : Nat} (hp : p k = true) : ∀ {b}, k ≤ b → k ≤ largestUpTo p b
  | 0, hk => hk
  | b + 1, hk => by
    rw [largestUpTo]
    split
    case isTrue => exact hk
    case isFalse h =>
      have hne : k ≠ b + 1 := by rintro rfl; exact h hp
      exact le_largestUpTo hp (by omega)

theorem gammaReaches_iff {n i k : Nat} :
    gammaReaches n i k = true ↔ k = 0 ∨ (2 * k - 1) ^ 5 * (n - 1) ^ 11 ≤ 32 * 10 ^ 10 * i ^ 11 := by
  simp [gammaReaches]

theorem gammaRound_reaches (n i : Nat) : gammaReaches n i (gammaRound n i) = true :=
  largestUpTo_passes (gammaReaches_iff.2 (.inl rfl)) 100

/-- A candidate that passes is at most 100, since `200^5 = 32 * 10^10` and `i <= N - 1` (R61; log 20). -/
theorem le_100_of_gammaReaches {n i k : Nat} (hn : 2 ≤ n) (hi : i < n) (h : gammaReaches n i k = true) : k ≤ 100 := by
  rcases gammaReaches_iff.1 h with rfl | h
  · exact Nat.zero_le _
  · have hpos : 0 < (n - 1) ^ 11 := Nat.pow_pos (by omega)
    have h200 : (2 * k - 1) ^ 5 * (n - 1) ^ 11 ≤ 200 ^ 5 * (n - 1) ^ 11 := calc
      _ ≤ 32 * 10 ^ 10 * i ^ 11 := h
      _ ≤ 32 * 10 ^ 10 * (n - 1) ^ 11 := Nat.mul_le_mul_left _ (Nat.pow_le_pow_left (by omega) 11)
    have hk : 2 * k - 1 ≤ 200 := le_of_pow_le_pow_left₀ (by decide) (by decide) (Nat.le_of_mul_le_mul_right h200 hpos)
    omega

/-- No candidate that passes is greater than `r(i)`. -/
theorem le_gammaRound {n i k : Nat} (hn : 2 ≤ n) (hi : i < n) (h : gammaReaches n i k = true) : k ≤ gammaRound n i :=
  le_largestUpTo h (le_100_of_gammaReaches hn hi h)

/-- Settles O55: the search answers a candidate that passes, and every candidate that passes is within its bound. -/
theorem gammaRoundIsLargest : Obligations.GammaRoundIsLargest := fun n i hn hi =>
  ⟨gammaReaches_iff.1 (gammaRound_reaches n i), fun _ hk => le_gammaRound hn hi (gammaReaches_iff.2 hk)⟩

/-! ## Ties -/

/-- With an even `N` the two sides of the test are never equal: the left one is odd, the right one even. -/
theorem no_tie {n i k : Nat} (hn : Odd (n - 1)) (hk : 1 ≤ k) :
    (2 * k - 1) ^ 5 * (n - 1) ^ 11 ≠ 32 * 10 ^ 10 * i ^ 11 := by
  have hodd : Odd ((2 * k - 1) ^ 5 * (n - 1) ^ 11) := (Odd.pow ⟨k - 1, by omega⟩).mul hn.pow
  have heven : Even (32 * 10 ^ 10 * i ^ 11) := ⟨16 * 10 ^ 10 * i ^ 11, by ring⟩
  exact fun h => Nat.not_even_iff_odd.2 hodd (h ▸ heven)

theorem gammaReaches_iff_lt {n i k : Nat} (hn : Odd (n - 1)) (hk : 1 ≤ k) :
    gammaReaches n i k = true ↔ (2 * k - 1) ^ 5 * (n - 1) ^ 11 < 32 * 10 ^ 10 * i ^ 11 := by
  rw [gammaReaches_iff, lt_iff_le_and_ne, or_iff_right (by omega), and_iff_left (no_tie hn hk)]

/-- Settles O59: by parity. -/
theorem noRoundingTies : Obligations.NoRoundingTies := by
  intro n hmem i hi
  have hsizes : ∀ n ∈ [64, 128], 2 ≤ n ∧ Odd (n - 1) := by decide
  obtain ⟨hn, hodd⟩ := hsizes n hmem
  refine ⟨fun k => gammaReaches_iff_lt hodd, ?_, fun k hk => le_gammaRound hn hi ?_⟩
  · rcases Nat.eq_zero_or_pos (gammaRound n i) with h | h
    · exact .inl h
    · exact .inr ((gammaReaches_iff_lt hodd h).1 (gammaRound_reaches n i))
  · exact gammaReaches_iff.2 (hk.imp_right le_of_lt)

/-! ## The formula -/

/-- `v(i)` of R61 before it is rounded: `100 (i/(N-1))^2.2`. -/
noncomputable def gammaReal (n i : Nat) : ℝ := 100 * ((i : ℝ) / ((n : ℝ) - 1)) ^ ((11 : ℝ) / 5)

/-- The real exponent 11/5, to the fifth power. -/
theorem rpow_eleven_fifths_pow {x : ℝ} (hx : 0 ≤ x) : (x ^ ((11 : ℝ) / 5)) ^ 5 = x ^ 11 := by
  rw [← Real.rpow_natCast, ← Real.rpow_mul hx, ← Real.rpow_natCast]
  norm_num

/-- The fifth power clears the root and the denominator. -/
theorem le_gammaReal_iff {n i : Nat} (hn : 2 ≤ n) {m : Nat} :
    (m : ℝ) ≤ 2 * gammaReal n i ↔ m ^ 5 * (n - 1) ^ 11 ≤ 32 * 10 ^ 10 * i ^ 11 := by
  have hcast : ((n - 1 : Nat) : ℝ) = (n : ℝ) - 1 := by rw [Nat.cast_sub (by omega), Nat.cast_one]
  have hpos : (0 : ℝ) < (n - 1 : Nat) := Nat.cast_pos.2 (by omega)
  have hx : (0 : ℝ) ≤ (i : ℝ) / (n - 1 : Nat) := by positivity
  have hv : 0 ≤ 2 * gammaReal n i := by rw [gammaReal, ← hcast]; positivity
  have h5 : (2 * gammaReal n i) ^ 5 = 32 * 10 ^ 10 * i ^ 11 / (n - 1 : Nat) ^ 11 := by
    rw [gammaReal, ← hcast, mul_pow, mul_pow, rpow_eleven_fifths_pow hx, div_pow]
    ring
  rw [← pow_le_pow_iff_left₀ (Nat.cast_nonneg m) hv (by decide : 5 ≠ 0), h5, le_div_iff₀ (by positivity)]
  exact_mod_cast Iff.rfl

/-- R62's test on a candidate is R61's rounding, half up. -/
theorem le_floor_gammaReal_iff {n i : Nat} (hn : 2 ≤ n) {k : Nat} :
    k ≤ ⌊gammaReal n i + 1 / 2⌋₊ ↔ gammaReaches n i k = true := by
  rcases Nat.eq_zero_or_pos k with rfl | hk
  · simp [gammaReaches_iff]
  · have hcast : ((2 * k - 1 : Nat) : ℝ) = 2 * k - 1 := by rw [Nat.cast_sub (by omega)]; push_cast; ring
    rw [Nat.le_floor_iff' hk.ne', gammaReaches_iff, or_iff_right hk.ne', ← le_gammaReal_iff hn, hcast]
    constructor <;> intro h <;> linarith

theorem floor_gammaReal {n i : Nat} (hn : 2 ≤ n) (hi : i < n) : ⌊gammaReal n i + 1 / 2⌋₊ = gammaRound n i :=
  le_antisymm (le_gammaRound hn hi ((le_floor_gammaReal_iff hn).1 le_rfl))
    ((le_floor_gammaReal_iff hn).2 (gammaRound_reaches n i))

theorem gammaGen_of_two_le {n : Nat} (hn : 2 ≤ n) : gammaGen n = some ((List.range n).map (gammaEntry n)) :=
  if_neg (by omega)

theorem gammaGen_eq_some {n : Nat} {l : List Nat} (h : gammaGen n = some l) :
    2 ≤ n ∧ l = (List.range n).map (gammaEntry n) := by
  have hn : 2 ≤ n := by
    by_contra hn
    rw [gammaGen, if_pos (by omega)] at h
    cases h
  rw [gammaGen_of_two_le hn] at h
  exact ⟨hn, (Option.some.inj h).symm⟩

theorem getElem?_gammaTable {n i : Nat} (hi : i < n) :
    ((List.range n).map (gammaEntry n))[i]? = some (gammaEntry n i) := by
  simp [hi]

/-- Settles O56: `r(i)` is the formula's rounding, and the floor at 1 and the ceiling at 100 are the same. -/
theorem gammaGenIsFormula : Obligations.GammaGenIsFormula := by
  refine fun n hn => ⟨_, gammaGen_of_two_le hn, by simp, fun i hi => ?_⟩
  have hfloor := floor_gammaReal hn hi
  rw [gammaReal] at hfloor
  rw [getElem?_gammaTable hi, gammaEntry, hfloor]

/-! ## A generated table is legal -/

theorem gammaRound_mono {n i j : Nat} (hn : 2 ≤ n) (hij : i ≤ j) (hj : j < n) : gammaRound n i ≤ gammaRound n j := by
  refine le_gammaRound hn hj (gammaReaches_iff.2 ?_)
  refine (gammaReaches_iff.1 (gammaRound_reaches n i)).imp_right fun h => h.trans ?_
  exact Nat.mul_le_mul_left _ (Nat.pow_le_pow_left hij 11)

theorem gammaEntry_mono {n i j : Nat} (hn : 2 ≤ n) (hij : i ≤ j) (hj : j < n) : gammaEntry n i ≤ gammaEntry n j :=
  min_le_min_left _ (max_le_max_left _ (gammaRound_mono hn hij hj))

theorem gammaEntry_range (n i : Nat) : 1 ≤ gammaEntry n i ∧ gammaEntry n i ≤ 100 := by
  unfold gammaEntry
  omega

/-- The last entry passes the test with 100: `199^5 <= 200^5`. -/
theorem gammaEntry_last {n : Nat} (hn : 2 ≤ n) : gammaEntry n (n - 1) = 100 := by
  have h : gammaReaches n (n - 1) 100 = true :=
    gammaReaches_iff.2 (.inr (Nat.mul_le_mul_right _ (by norm_num)))
  have hr : 100 ≤ gammaRound n (n - 1) := le_gammaRound hn (by omega) h
  unfold gammaEntry
  omega

/-- R5 holds of a generated table (40_gamma_table.md R64). -/
theorem gammaOk_of_generated {c : Cfg} (h : gammaGen c.n = some c.gamma) : c.gammaOk = true := by
  obtain ⟨hn, hl⟩ := gammaGen_eq_some h
  rw [gammaOk_iff, hl]
  refine ⟨by simp, fun i hi => ⟨_, getElem?_gammaTable hi, gammaEntry_range _ _⟩, fun i d e hd he => ?_, ?_⟩
  · have hi : i + 1 < c.n := by simpa using (List.getElem?_eq_some_iff.1 he).1
    rw [getElem?_gammaTable (by omega), Option.some_inj] at hd
    rw [getElem?_gammaTable hi, Option.some_inj] at he
    exact hd ▸ he ▸ gammaEntry_mono hn (by omega) hi
  · rw [getElem?_gammaTable (by omega), gammaEntry_last hn]

/-- R4 follows from R3. -/
theorem indexOk_of_shapeOk {c : Cfg} (h : c.shapeOk = true) : c.indexOk = true := by
  obtain ⟨-, hs, hn⟩ : 1 ≤ c.adcWidth ∧ c.shift ≤ c.adcWidth ∧ c.n = 2 ^ (c.adcWidth - c.shift) := by
    simpa [Cfg.shapeOk, and_assoc] using h
  rw [Cfg.indexOk, decide_eq_true_iff, hn]
  exact shiftRight_lt_two_pow hs (Nat.sub_lt (by positivity) one_pos)

/-- Settles O58: the generated entries meet R5, and the static bound R4 follows from R3. -/
theorem generatedTableIsLegal : Obligations.GeneratedTableIsLegal := fun c hsteps hshape hduty hgen =>
  (Cfg.wf_iff c).2 ⟨hsteps, hshape, indexOk_of_shapeOk hshape, gammaOk_of_generated hgen, hduty⟩

/-- Settles O57: two closed tables; the configurations that take them are well formed as every one that takes a
generated table is. -/
theorem defaultTablesGenerated : Obligations.DefaultTablesGenerated := by
  have h128 : gammaGen 128 = some Config.gammaTable128 := by decide +kernel
  have h64 : gammaGen 64 = some Config.gammaTable64 := by decide +kernel
  exact ⟨h128, h64, generatedTableIsLegal Config.default128 rfl rfl rfl h128,
    generatedTableIsLegal Config.default64 rfl rfl rfl h64⟩

end Sys2Proof.Machine
end

section
/-! Proofs of the statements on one tick (spec/43_tick_sequence.md R95 to R102, 42_pwm_phase_driver.md R89 to R93). -/

namespace Sys2Proof.Machine

/-! ## A tick completes -/

/-- Settles O31: the closed form is what a tick that reads the duty `d` does. -/
theorem tickClosedForm : Obligations.TickClosedForm := by
  intro s busy raw d h hd
  rw [tick_of_dutyInTick h hd, tickResult]

/-- A tick reads some duty unless it completes with a sample out of range. -/
theorem exists_dutyInTick {s : State} (h : s.Ready) {busy : Bool} {raw : Nat}
    (hraw : completes s busy = true → raw < 2 ^ s.cfg.adcWidth) : ∃ d, dutyInTick s busy raw d := by
  cases hc : completes s busy
  case false => exact ⟨s.pwmDuty, (dutyInTick_of_not_completes hc raw _).2 rfl⟩
  case true =>
    obtain ⟨d, hd, -⟩ := romRead_of_lt h.configured (Cfg.index_lt h.configured (hraw hc))
    exact ⟨d, (dutyInTick_of_completes h.configured hc raw d).2 ⟨hraw hc, hd⟩⟩

/-- A tick ends in a state in which the next one can begin. -/
theorem ready_tickResult {s : State} (h : s.Ready) {busy : Bool} {raw d : Nat} (hd : dutyInTick s busy raw d) :
    (tickResult s busy raw d).Ready :=
  ⟨h.configured, inRange_iff.2 ⟨Nat.mod_lt _ (Cfg.steps_pos h.configured), dutyInTick_range h hd⟩, h.boundary⟩

/-- After a tick the line that is not selected is inactive (42_pwm_phase_driver.md R89). -/
theorem otherOut_tickResult (s : State) (busy : Bool) (raw d : Nat) : (tickResult s busy raw d).otherOut = false := by
  cases hq : s.phase ^^ (s.pwmCounter + 1 == s.cfg.steps) <;> simp [State.otherOut, tickResult, hq]

/-- After a tick the selected line shows the compare (42_pwm_phase_driver.md R89). -/
theorem selectedOut_tickResult (s : State) (busy : Bool) (raw d : Nat) :
    (tickResult s busy raw d).selectedOut = decide ((s.pwmCounter + 1) % s.cfg.steps < d) := by
  cases hq : s.phase ^^ (s.pwmCounter + 1 == s.cfg.steps) <;> simp [State.selectedOut, tickResult, hq]

theorem safe_tickResult {s : State} (h : s.Ready) {busy : Bool} {raw d : Nat} (hd : dutyInTick s busy raw d) :
    (tickResult s busy raw d).Safe := by
  obtain ⟨hc, hd1, hd2⟩ := inRange_iff.1 (ready_tickResult h hd).in_range
  exact ⟨h.configured, hc, hd1, hd2, exclusive_of_otherOut (otherOut_tickResult s busy raw d)⟩

/-- Settles O32: with both answers in range the tick reads some duty. -/
theorem tickAlwaysCompletes : Obligations.TickAlwaysCompletes := by
  intro s busy raw h hraw
  obtain ⟨d, hd⟩ := exists_dutyInTick h (busy := busy) fun _ => hraw
  exact ⟨_, tick_of_dutyInTick h hd, ready_tickResult h hd, safe_tickResult h hd, rfl, rfl⟩

/-! ## Answers that are not consulted -/

theorem completes_busy (s : State) : completes s true = false := by simp [completes]

theorem completes_of_not_polls {s : State} (h : polls s = false) (busy : Bool) : completes s busy = false := by
  simp [completes, h]

/-- A tick that polls nothing leaves the answers aside. -/
theorem tickResult_of_not_polls {s : State} (h : polls s = false) (b b' : Bool) (r r' d : Nat) :
    tickResult s b r d = tickResult s b' r' d := by
  simp [tickResult, tickEvents, completes_of_not_polls h, h]

/-- A tick that is answered busy leaves the sample aside. -/
theorem tickResult_busy (s : State) (r r' d : Nat) : tickResult s true r d = tickResult s true r' d := by
  simp [tickResult, tickEvents, completes_busy]

/-- A tick that completes no conversion keeps the duty. -/
theorem tick_of_not_completes {s : State} (h : s.Ready) {busy : Bool} (hc : completes s busy = false) (raw : Nat) :
    tick s busy raw = .next (tickResult s busy raw s.pwmDuty) :=
  tick_of_dutyInTick h ((dutyInTick_of_not_completes hc raw _).2 rfl)

/-- Settles O33: such ticks keep the duty, and their result does not consult the answers. -/
theorem unusedAnswersAreIgnored : Obligations.UnusedAnswersAreIgnored := by
  refine ⟨fun s b b' r r' h ha h0 => ?_, fun s r r' h => ?_⟩
  · have hp : polls s = false := by simp [polls, ha, h0]
    rw [tick_of_not_completes h (completes_of_not_polls hp b), tick_of_not_completes h (completes_of_not_polls hp b'),
      tickResult_of_not_polls hp b b' r r']
  · rw [tick_of_not_completes h (completes_busy s), tick_of_not_completes h (completes_busy s), tickResult_busy s r r']

/-! ## Output writes -/

theorem swap_otherLine (ph : Bool) : (otherLine ph).swap = selectedLine ph := by cases ph <;> rfl

/-- The output writes of a tick are its last events, and only these. -/
theorem exists_tickEvents_eq_append_outputWrites (s : State) (busy : Bool) (raw d : Nat) :
    ∃ before, tickEvents s busy raw d = before ++ outputWrites s.cfg s.pwmCounter s.phase d ∧
      ∀ l v, Event.out l v ∉ before :=
  ⟨_, rfl, by simp [List.mem_ite_nil_right]⟩

/-- Settles O34: by what a tick can do, its list is `tickEvents`, which ends with the two writes. -/
theorem tickEndsWithTwoWrites : Obligations.TickEndsWithTwoWrites := by
  intro s t busy raw h ht
  obtain ⟨d, -, rfl⟩ := (tick_eq_next h).1 ht
  obtain ⟨before, he, hno⟩ := exists_tickEvents_eq_append_outputWrites s busy raw d
  exact ⟨before, _, _, he.trans (by rw [outputWrites, ← swap_otherLine]), hno⟩

/-- Settles O39: by the two lines of a tick's result; the counter stays below `STEPS`. -/
theorem outputsFollowCompare : Obligations.OutputsFollowCompare := by
  intro s t busy raw h ht
  obtain ⟨d, hd, rfl⟩ := (tick_eq_next h).1 ht
  refine ⟨selectedOut_tickResult s busy raw d, otherOut_tickResult s busy raw d, fun (hle : s.cfg.steps ≤ d) => ?_⟩
  have hlt : (s.pwmCounter + 1) % s.cfg.steps < d := (Nat.mod_lt _ (Cfg.steps_pos h.configured)).trans_le hle
  simp [tickResult, hlt]

/-- Settles O49: the tick completes, so the duty that its compare reads is the entry. -/
theorem newDutyUsedSameTick : Obligations.NewDutyUsedSameTick := by
  intro s t raw d h ha hraw hd ht
  have hc : completes s false = true := by simp [completes, polls, ha]
  have hduty : dutyInTick s false raw d := by
    rw [dutyInTick, if_pos hc]
    exact ⟨hraw, hd⟩
  rw [tick_of_dutyInTick h hduty] at ht
  cases ht
  exact ⟨rfl, selectedOut_tickResult s false raw d, if_pos hc⟩

/-! ## The two lines exchanged -/

theorem ready_swap {s : State} (h : s.Ready) : s.swap.Ready := ⟨h.configured, h.in_range, h.boundary⟩

theorem phaseAfter_not (c : Cfg) (k : Nat) (ph : Bool) (n : Nat) : phaseAfter c k (!ph) n = !phaseAfter c k ph n := by
  simp [phaseAfter]

theorem tickEvents_swap (s : State) (busy : Bool) (raw d : Nat) :
    tickEvents s.swap busy raw d = (tickEvents s busy raw d).map Event.swap := by
  have hsel : ∀ ph, selectedLine (!ph) = (selectedLine ph).swap := by decide
  have hoth : ∀ ph, otherLine (!ph) = (otherLine ph).swap := by decide
  have hpolls : polls s.swap = polls s := rfl
  have hcompletes : completes s.swap busy = completes s busy := rfl
  rw [tickEvents, hpolls, hcompletes]
  simp only [tickEvents, State.swap, List.map_append, apply_ite (List.map Event.swap), List.map_cons,
    List.map_nil, Event.swap, phaseAfter_not, hsel, hoth]
  rfl

theorem tickResult_swap (s : State) (busy : Bool) (raw d : Nat) :
    tickResult s.swap busy raw d = (tickResult s busy raw d).swap := by
  rw [tickResult, tickEvents_swap]
  simp only [tickResult, State.swap, polls, completes, Bool.not_xor, Bool.not_not]
  rfl

/-- A tick that would complete with a sample out of range stops (30_encoding.md R52 (d)). -/
theorem tick_of_raw_out_of_range {s : State} (h : s.Ready) {busy : Bool} {raw : Nat} (hc : completes s busy = true)
    (hraw : 2 ^ s.cfg.adcWidth ≤ raw) : tick s busy raw = .refused .rawOutOfRange := by
  obtain ⟨hp, hb⟩ : polls s = true ∧ busy = false := by simpa [completes] using hc
  have hstep : step (afterStart s busy raw) = .refused .rawOutOfRange :=
    impossibleValuesHaveNoStep.2 _ h.configured h.in_range ⟨rfl, h.boundary.2⟩ (by simp [afterStart, hp]) hb hraw
  rw [tick_eq_steps_afterStart h, steps, hstep]

/-- Settles O38: if the tick goes on, its result with the lines exchanged is the result of the exchanged state, which
reads the same duty; if it stops, both stop. -/
theorem tickIsSymmetricInLines : Obligations.TickIsSymmetricInLines := by
  intro s busy raw h
  by_cases hraw : completes s busy = true → raw < 2 ^ s.cfg.adcWidth
  · obtain ⟨d, hd⟩ := exists_dutyInTick h hraw
    have hd' : dutyInTick s.swap busy raw d := hd
    rw [tick_of_dutyInTick h hd, tick_of_dutyInTick (ready_swap h) hd', tickResult_swap, andThen_next]
  · obtain ⟨hc, hout⟩ := Classical.not_imp.1 hraw
    have hout : 2 ^ s.cfg.adcWidth ≤ raw := Nat.le_of_not_lt hout
    rw [tick_of_raw_out_of_range h hc hout, tick_of_raw_out_of_range (s := s.swap) (ready_swap h) hc hout,
      andThen_refused]

/-! ## The first tick after reset -/

theorem ready_resetWith {c : Cfg} (hw : c.wf = true) : (State.resetWith c).Ready :=
  ⟨hw, (inv_resetWith hw).safe.inRange, rfl, rfl⟩

/-- The events of the first tick after reset, the ADC being busy. -/
theorem tickEvents_resetWith_busy (c : Cfg) (raw : Nat) :
    tickEvents (State.resetWith c) true raw c.initialDuty =
      (if c.wdtEnable then [Event.wdtKick] else []) ++ [Event.adcStart, Event.adcPoll true] ++
        ((if 1 = c.steps then [Event.phaseToggle true] else []) ++ outputWrites c 0 false c.initialDuty) := by
  simp [tickEvents, State.resetWith, polls, completes, outputWrites]
  rfl

/-- Settles O40: the tick begins Idle at counter 0 and is answered busy, so it starts a conversion, polls it, and keeps
the initial duty. -/
theorem firstTickAfterReset : Obligations.FirstTickAfterReset := by
  intro c raw hw
  obtain ⟨hd1, -⟩ := Cfg.duty_range hw
  refine ⟨_, tick_of_not_completes (ready_resetWith hw) (completes_busy _) raw, rfl, rfl,
    ⟨_, tickEvents_resetWith_busy c raw⟩, fun h2 => ?_, fun h1 => ?_⟩
  · have hb : (1 == c.steps) = false := by simp; omega
    have hm : 1 % c.steps = 1 := Nat.mod_eq_of_lt h2
    simp [tickResult, State.resetWith, hb, hm]
  · simp [tickResult, State.resetWith, h1]
    omega

end Sys2Proof.Machine
end

section
/-! Everything a run of ticks can do, said once (spec/43_tick_sequence.md R99), and the schedule of the counter and the
phase (42_pwm_phase_driver.md R90). -/

namespace Sys2Proof.Machine

/-! ## The schedule -/

/-- `u` stands `k` ticks after `s` as far as the configuration, the counter and the phase tell (R90). -/
structure OnSchedule (s : State) (k : Nat) (u : State) : Prop where
  ready : u.Ready
  cfg : u.cfg = s.cfg
  counter : u.pwmCounter = counterAfter s.cfg s.pwmCounter k
  phase : u.phase = phaseAfter s.cfg s.pwmCounter s.phase k

theorem counterAfter_add (c : Cfg) (a k m : Nat) :
    counterAfter c (counterAfter c a k) m = counterAfter c a (k + m) := by
  simp [counterAfter, Nat.add_assoc]

/-- `k` ticks and then `m` ticks wrap as often as `k + m` ticks. -/
theorem div_add_wraps {n : Nat} (hn : 0 < n) (a k m : Nat) :
    (a + (k + m)) / n = (a + k) / n + ((a + k) % n + m) / n := by
  conv_lhs => rw [← Nat.add_assoc, ← Nat.div_add_mod (a + k) n, Nat.add_assoc, Nat.mul_add_div hn]

/-- A sum is odd when exactly one of its terms is. -/
theorem xor_decide_odd (q r : Nat) : (decide (q % 2 = 1) ^^ decide (r % 2 = 1)) = decide ((q + r) % 2 = 1) := by
  rcases Nat.mod_two_eq_zero_or_one q with h | h <;> rcases Nat.mod_two_eq_zero_or_one r with h' | h' <;>
    simp [Nat.add_mod, h, h']

theorem phaseAfter_add {c : Cfg} (hn : 0 < c.steps) (a k m : Nat) (ph : Bool) :
    phaseAfter c (counterAfter c a k) (phaseAfter c a ph k) m = phaseAfter c a ph (k + m) := by
  rw [phaseAfter, phaseAfter, phaseAfter, counterAfter, Bool.xor_assoc, xor_decide_odd, ← div_add_wraps hn]

theorem OnSchedule.refl {s : State} (h : s.Ready) : OnSchedule s 0 s := by
  have hc : s.pwmCounter < s.cfg.steps := (inRange_iff.1 h.in_range).1
  exact ⟨h, rfl, by simp [counterAfter, Nat.mod_eq_of_lt hc], by simp [phaseAfter, Nat.div_eq_of_lt hc]⟩

theorem OnSchedule.trans {s u v : State} {k m : Nat} (h : OnSchedule s k u) (h' : OnSchedule u m v) :
    OnSchedule s (k + m) v := by
  have hn : 0 < s.cfg.steps := h.cfg ▸ Cfg.steps_pos h.ready.configured
  refine ⟨h'.ready, h'.cfg.trans h.cfg, ?_, ?_⟩
  · rw [h'.counter, h.cfg, h.counter, counterAfter_add]
  · rw [h'.phase, h.cfg, h.counter, h.phase, phaseAfter_add hn]

theorem onSchedule_tickResult {s : State} (h : s.Ready) {busy : Bool} {raw d : Nat} (hd : dutyInTick s busy raw d) :
    OnSchedule s 1 (tickResult s busy raw d) :=
  ⟨ready_tickResult h hd, rfl, rfl, (phaseAfter_one (inRange_iff.1 h.in_range).1 s.phase).symm⟩

/-! ## Runs -/

/-- The run of ticks from `s` with these answers goes through these states, each tick having read some duty. -/
inductive Run : State → List (Bool × Nat) → List State → Prop where
  | nil {s : State} : s.Ready → Run s [] []
  | cons {s : State} {busy : Bool} {raw d : Nat} {rest : List (Bool × Nat)} {ts : List State} : s.Ready →
      dutyInTick s busy raw d → Run (tickResult s busy raw d) rest ts →
      Run s ((busy, raw) :: rest) (tickResult s busy raw d :: ts)

theorem ticks_cons_eq_next {s : State} {busy : Bool} {raw : Nat} {rest : List (Bool × Nat)} {ts : List State} :
    ticks ((busy, raw) :: rest) s = .next ts ↔
      ∃ t us, tick s busy raw = .next t ∧ ticks rest t = .next us ∧ t :: us = ts := by
  rw [ticks]
  cases tick s busy raw with
  | next t => cases hr : ticks rest t <;> simp [hr]
  | fault r => cases r
  | refused r => simp

/-- What `ticks` answers is a run. -/
theorem run_iff_ticks {answers : List (Bool × Nat)} : ∀ {s : State} {ts : List State}, s.Ready →
    (Run s answers ts ↔ ticks answers s = .next ts) := by
  induction answers with
  | nil =>
    intro s ts h
    constructor
    · rintro ⟨-⟩; rfl
    · intro ht; cases ht; exact .nil h
  | cons a rest ih =>
    obtain ⟨busy, raw⟩ := a
    intro s ts h
    rw [ticks_cons_eq_next]
    constructor
    · rintro (_ | ⟨-, hd, hrun⟩)
      exact ⟨_, _, tick_of_dutyInTick h hd, (ih (ready_tickResult h hd)).1 hrun, rfl⟩
    · rintro ⟨t, us, ht, hus, rfl⟩
      obtain ⟨d, hd, rfl⟩ := (tick_eq_next h).1 ht
      exact .cons h hd ((ih (ready_tickResult h hd)).2 hus)

/-- A run exists whenever each answer is busy or keeps the port's contract. -/
theorem exists_run {answers : List (Bool × Nat)} : ∀ {s : State}, s.Ready →
    (∀ a ∈ answers, a.1 = true ∨ a.2 < 2 ^ s.cfg.adcWidth) → ∃ ts, Run s answers ts := by
  induction answers with
  | nil => exact fun h _ => ⟨[], .nil h⟩
  | cons a rest ih =>
    obtain ⟨busy, raw⟩ := a
    intro s h hok
    have hraw : completes s busy = true → raw < 2 ^ s.cfg.adcWidth := fun hc => by
      rcases hok _ (List.mem_cons_self ..) with rfl | hr
      · rw [completes_busy] at hc; cases hc
      · exact hr
    obtain ⟨d, hd⟩ := exists_dutyInTick h hraw
    obtain ⟨ts, hts⟩ := ih (ready_tickResult h hd) fun a ha => hok a (List.mem_cons_of_mem _ ha)
    exact ⟨_, .cons h hd hts⟩

theorem Run.ready {s : State} {answers : List (Bool × Nat)} {ts : List State} (h : Run s answers ts) : s.Ready := by
  cases h <;> assumption

theorem Run.length_eq {s : State} {answers : List (Bool × Nat)} {ts : List State} (h : Run s answers ts) :
    ts.length = answers.length := by
  induction h with
  | nil => rfl
  | cons _ _ _ ih => rw [List.length_cons, List.length_cons, ih]

theorem getLast?_getD_cons (s t : State) (ts : List State) :
    (t :: ts).getLast?.getD s = ts.getLast?.getD t := by
  rw [List.getLast?_cons, Option.getD_some]

/-- The last state of a run is on the schedule. -/
theorem Run.onSchedule_last {s : State} {answers : List (Bool × Nat)} {ts : List State} (h : Run s answers ts) :
    OnSchedule s answers.length (ts.getLast?.getD s) := by
  induction h with
  | nil h => exact .refl h
  | cons h hd _ ih =>
    rw [getLast?_getD_cons, List.length_cons, Nat.add_comm]
    exact (onSchedule_tickResult h hd).trans ih

/-- A run with two lists of answers, one after the other, is two runs. -/
theorem Run.split {as bs : List (Bool × Nat)} : ∀ {s : State} {ts : List State}, Run s (as ++ bs) ts →
    ∃ us vs, ts = us ++ vs ∧ Run s as us ∧ Run (us.getLast?.getD s) bs vs := by
  induction as with
  | nil => exact fun h => ⟨[], _, rfl, .nil h.ready, h⟩
  | cons a as ih =>
    rintro s ts (_ | ⟨h, hd, hrun⟩)
    obtain ⟨us, vs, rfl, hus, hvs⟩ := ih hrun
    exact ⟨_ :: us, vs, rfl, .cons h hd hus, by rwa [getLast?_getD_cons]⟩

/-- The tick number `k` of a run: it begins in a state `u` of the run that is on the schedule, with the answers number
`k`. -/
theorem Run.tick_at {s : State} {answers : List (Bool × Nat)} {ts : List State} (h : Run s answers ts) :
    ∀ {k : Nat} {t : State}, ts[k]? = some t → ∃ u busy raw d, u ∈ s :: ts ∧ OnSchedule s k u ∧
      answers[k]? = some (busy, raw) ∧ dutyInTick u busy raw d ∧ t = tickResult u busy raw d := by
  induction h with
  | nil =>
    intro k t ht
    rw [List.getElem?_nil] at ht
    cases ht
  | @cons s busy raw d rest ts h hd hrun ih =>
    rintro (_ | k) t ht
    · cases ht
      exact ⟨s, busy, raw, d, List.mem_cons_self .., .refl h, rfl, hd, rfl⟩
    · obtain ⟨u, busy', raw', d', hu, hs, ha, hd', rfl⟩ := ih ht
      refine ⟨u, busy', raw', d', List.mem_cons_of_mem _ hu, ?_, ha, hd', rfl⟩
      rw [Nat.add_comm]
      exact (onSchedule_tickResult h hd).trans hs

/-- Every state of a run is on the schedule. -/
theorem Run.onSchedule {s : State} {answers : List (Bool × Nat)} {ts : List State} (h : Run s answers ts) {k : Nat}
    {t : State} (ht : ts[k]? = some t) : OnSchedule s (k + 1) t := by
  obtain ⟨u, busy, raw, d, -, hs, -, hd, rfl⟩ := h.tick_at ht
  exact hs.trans (onSchedule_tickResult hs.ready hd)

/-- Settles O41: the run exists, and each of its states is on the schedule. -/
theorem counterAndPhaseLaw : Obligations.CounterAndPhaseLaw := by
  refine ⟨fun s answers h hok => ?_, fun c => ready_resetWith⟩
  obtain ⟨ts, hrun⟩ := exists_run h fun a ha => .inr (hok a ha)
  refine ⟨ts, (run_iff_ticks h).1 hrun, hrun.length_eq, fun k t ht => ?_⟩
  obtain ⟨hr, hcfg, hcounter, hphase⟩ := hrun.onSchedule ht
  exact ⟨hcfg ▸ (inRange_iff.1 hr.in_range).1, hcounter, hphase⟩

/-! ## Conversions along a run -/

theorem eventsOf_cons (t : State) (ts : List State) : eventsOf (t :: ts) = t.events ++ eventsOf ts := rfl

/-- A list of events is read piece by piece. -/
theorem conversionScan_append (es es' : List Event) : ∀ inFlight,
    conversionScan inFlight (es ++ es') = (conversionScan inFlight es).bind (conversionScan · es') := by
  induction es with
  | nil => exact fun _ => rfl
  | cons e es ih =>
    intro inFlight
    cases e
    case adcStart => cases inFlight <;> simp [conversionScan, ih]
    case adcDone => cases inFlight <;> simp [conversionScan, ih]
    all_goals simp [conversionScan, ih]

/-- One tick starts and completes as `adc_state` before and after it says (41_sampling_state_machine.md R74). -/
theorem conversionScan_tickEvents (s : State) (busy : Bool) (raw d : Nat) :
    conversionScan s.adcState.bit (tickEvents s busy raw d) = some (tickResult s busy raw d).adcState.bit := by
  simp only [tickEvents, tickResult, conversionScan_append, apply_ite (conversionScan _)]
  cases ha : s.adcState
  case converting =>
    have hp : polls s = true := by simp [polls, ha]
    cases busy <;> simp [completes, hp, conversionScan, AdcState.bit]
  case idle =>
    by_cases h0 : s.pwmCounter = 0
    · have hp : polls s = true := by simp [polls, h0]
      cases busy <;> simp [completes, hp, h0, conversionScan, AdcState.bit]
    · have hp : polls s = false := by simp [polls, ha, h0]
      simp [completes, hp, h0, conversionScan, AdcState.bit]

/-- Settles O46: by induction on the run, each tick carrying "in flight" from its first to its last state. -/
theorem atMostOneConversionInFlight : Obligations.AtMostOneConversionInFlight := by
  intro s answers ts h ht
  have hrun := (run_iff_ticks h).2 ht
  clear ht h
  induction hrun with
  | nil => rfl
  | cons _ _ _ ih =>
    rw [eventsOf_cons, conversionScan_append, getLast?_getD_cons]
    exact (congrArg (Option.bind · _) (conversionScan_tickEvents ..)).trans ih

end Sys2Proof.Machine
end

section
/-! Proofs of the statements on half-periods (spec/42_pwm_phase_driver.md R88 to R92, 70_reset_and_hazards.md R137). -/

namespace Sys2Proof.Machine

/-! ## Counting events -/

/-- How many of the next `n` ticks begin with the counter at 0, if it is `a` now. -/
def zeroTicks (c : Cfg) (a n : Nat) : Nat := Nat.count (fun j => (a + j) % c.steps = 0) n

theorem zeroTicks_succ {c : Cfg} {a : Nat} (ha : a < c.steps) (n : Nat) :
    zeroTicks c a (n + 1) = (if a = 0 then 1 else 0) + zeroTicks c ((a + 1) % c.steps) n := by
  simp only [zeroTicks, Nat.count_succ', Nat.add_zero, Nat.mod_eq_of_lt ha, Nat.mod_add_mod, Nat.add_assoc,
    Nat.add_comm 1]
  exact Nat.add_comm ..

/-- One half-period has one tick that begins with the counter at 0. -/
theorem zeroTicks_steps {c : Cfg} {a : Nat} (ha : a < c.steps) : zeroTicks c a c.steps = 1 := by
  have hmod : ∀ j, (a + j) % c.steps = 0 ↔ j ≡ c.steps - a [MOD c.steps] := fun j => by
    rw [← Nat.ModEq.add_iff_left (Nat.ModEq.refl a), Nat.add_sub_cancel' ha.le, Nat.ModEq, Nat.mod_self]
  have hpos : 0 < c.steps := by omega
  simp only [zeroTicks, hmod]
  rw [Nat.count_modEq_card _ hpos, Nat.div_self hpos, Nat.mod_self, if_neg (Nat.not_lt_zero _)]

theorem count_wdtKick_tickEvents (s : State) (busy : Bool) (raw d : Nat) :
    (tickEvents s busy raw d).count .wdtKick = if s.pwmCounter = 0 ∧ s.cfg.wdtEnable = true then 1 else 0 := by
  simp [tickEvents, List.count_append, apply_ite (List.count Event.wdtKick)]

theorem count_phaseToggle_tickEvents (s : State) (busy : Bool) (raw d : Nat) (p : Bool) :
    (tickEvents s busy raw d).count (.phaseToggle p) =
      if s.pwmCounter + 1 = s.cfg.steps ∧ p = !s.phase then 1 else 0 := by
  simp [tickEvents, List.count_append, apply_ite (List.count (Event.phaseToggle p)), List.count_singleton, ite_and,
    eq_comm (a := p)]

/-- A tick toggles `phase` exactly when it wraps. -/
theorem phaseToggle_mem_tickEvents {s : State} {busy : Bool} {raw d : Nat} {p : Bool} :
    Event.phaseToggle p ∈ tickEvents s busy raw d ↔ s.pwmCounter + 1 = s.cfg.steps ∧ p = !s.phase := by
  rw [← List.count_pos_iff, count_phaseToggle_tickEvents]
  split <;> simp [*]

theorem tickResult_events (s : State) (busy : Bool) (raw d : Nat) :
    (tickResult s busy raw d).events = tickEvents s busy raw d := rfl

theorem count_eventsOf_cons (t : State) (ts : List State) (e : Event) :
    (eventsOf (t :: ts)).count e = t.events.count e + (eventsOf ts).count e := by
  rw [eventsOf_cons, List.count_append]

/-- The watchdog is kicked on the ticks that begin with the counter at 0, if it is enabled. -/
theorem Run.count_wdtKick {s : State} {answers : List (Bool × Nat)} {ts : List State} (h : Run s answers ts) :
    (eventsOf ts).count .wdtKick = if s.cfg.wdtEnable then zeroTicks s.cfg s.pwmCounter answers.length else 0 := by
  induction h with
  | nil => simp [eventsOf, zeroTicks]
  | @cons s busy raw d rest ts h hd _ ih =>
    rw [count_eventsOf_cons, tickResult_events, count_wdtKick_tickEvents, ih, List.length_cons,
      zeroTicks_succ (inRange_iff.1 h.in_range).1]
    cases hw : s.cfg.wdtEnable <;> simp [tickResult, hw]

/-- A conversion starts only on ticks that begin with the counter at 0. -/
theorem Run.count_adcStart_le {s : State} {answers : List (Bool × Nat)} {ts : List State} (h : Run s answers ts) :
    (eventsOf ts).count .adcStart ≤ zeroTicks s.cfg s.pwmCounter answers.length := by
  induction h with
  | nil => simp [eventsOf, zeroTicks]
  | @cons s busy raw d rest ts h hd _ ih =>
    rw [count_eventsOf_cons, tickResult_events, count_adcStart_tickEvents, List.length_cons,
      zeroTicks_succ (inRange_iff.1 h.in_range).1]
    refine Nat.add_le_add ?_ ih
    split <;> simp [*]

/-- The toggles of a run alternate, the first one to the other phase: of `q` wraps half go each way. -/
theorem Run.count_phaseToggle {s : State} {answers : List (Bool × Nat)} {ts : List State} (h : Run s answers ts) :
    ∀ p, (eventsOf ts).count (.phaseToggle p) =
      ((s.pwmCounter + answers.length) / s.cfg.steps + if p = s.phase then 0 else 1) / 2 := by
  induction h with
  | @nil s h =>
    intro p
    rw [List.length_nil, Nat.add_zero, Nat.div_eq_of_lt (inRange_iff.1 h.in_range).1]
    split <;> rfl
  | @cons s busy raw d rest ts h hd _ ih =>
    intro p
    have hc : s.pwmCounter < s.cfg.steps := (inRange_iff.1 h.in_range).1
    rw [count_eventsOf_cons, tickResult_events, count_phaseToggle_tickEvents, ih, List.length_cons]
    by_cases hwrap : s.pwmCounter + 1 = s.cfg.steps
    · have hnow : (s.pwmCounter + (rest.length + 1)) / s.cfg.steps = rest.length / s.cfg.steps + 1 := by
        rw [← Nat.add_div_right _ (by omega)]
        congr 1
        omega
      have hcounter : (tickResult s busy raw d).pwmCounter = 0 := by simp [tickResult, hwrap]
      have hphase : (tickResult s busy raw d).phase = !s.phase := by simp [tickResult, hwrap]
      have hcfg : (tickResult s busy raw d).cfg = s.cfg := rfl
      rw [hcounter, hphase, hcfg, hnow, Nat.zero_add]
      by_cases hp : p = s.phase
      · simp [hwrap, hp]
      · have hp' : p = !s.phase := Bool.eq_not.2 hp
        simp [hwrap, hp']
        omega
    · have hnext : (s.pwmCounter + 1) % s.cfg.steps = s.pwmCounter + 1 := Nat.mod_eq_of_lt (by omega)
      have hb : (s.pwmCounter + 1 == s.cfg.steps) = false := by simpa using hwrap
      simp [tickResult, hwrap, hnext, hb, Nat.add_assoc, Nat.add_comm 1]

/-- Settles O42: in `STEPS` ticks there is one wrap, one tick that begins with the counter at 0, and the schedule's last
phase is the other one. -/
theorem halfPeriodCountsEvents : Obligations.HalfPeriodCountsEvents := by
  intro s answers ts h hlen ht
  have hrun := (run_iff_ticks h).2 ht
  have hc : s.pwmCounter < s.cfg.steps := (inRange_iff.1 h.in_range).1
  have hq : (s.pwmCounter + s.cfg.steps) / s.cfg.steps = 1 := by
    rw [Nat.add_div_right _ (by omega), Nat.div_eq_of_lt hc]
  have hzero : zeroTicks s.cfg s.pwmCounter answers.length = 1 := by rw [hlen, zeroTicks_steps hc]
  refine ⟨?_, ?_, ?_, ?_, ?_⟩
  · rw [hrun.count_phaseToggle, hlen, hq]
    simp
  · rw [hrun.count_phaseToggle, hlen, hq]
    simp
  · rw [hrun.onSchedule_last.phase, hlen, phaseAfter, hq]
    simp
  · rw [hrun.count_wdtKick, hzero]
  · exact hzero ▸ hrun.count_adcStart_le

/-! ## On-time -/

/-- A list that is true below an index and false from it on. -/
theorem eq_replicate_append {l : List Bool} {m n : Nat} (hl : l.length = m + n)
    (h : ∀ k b, l[k]? = some b → b = decide (k < m)) : l = List.replicate m true ++ List.replicate n false := by
  refine List.ext_getElem (by simpa using hl) fun k hk _ => ?_
  rw [h k _ (List.getElem?_eq_getElem hk), List.getElem_append]
  split
  case isTrue hlt => simpa using hlt
  case isFalse hge => simpa using hge

/-- What the lines of a run show after its tick number `k`. -/
theorem Run.outputs_at {s : State} {answers : List (Bool × Nat)} {ts : List State} (h : Run s answers ts) {k : Nat}
    {t : State} (ht : ts[k]? = some t) :
    t.selectedOut = decide (counterAfter s.cfg s.pwmCounter (k + 1) < t.pwmDuty) ∧ t.otherOut = false := by
  have hcounter := (h.onSchedule ht).counter
  obtain ⟨u, busy, raw, d, -, hs, -, -, rfl⟩ := h.tick_at ht
  refine ⟨?_, otherOut_tickResult u busy raw d⟩
  rw [← hcounter]
  exact selectedOut_tickResult u busy raw d

/-- Settles O43: the tick number `k` of the half-period ends with the counter at `k`. -/
theorem onTimePerHalfPeriod : Obligations.OnTimePerHalfPeriod := by
  intro s answers ts d h hwrap hlen ht hduty
  have hrun := (run_iff_ticks h).2 ht
  have hl : ts.length = s.cfg.steps := hrun.length_eq.trans hlen
  have hpos : 0 < s.cfg.steps := Cfg.steps_pos h.configured
  have hat : ∀ k t, ts[k]? = some t → t.selectedOut = decide (k < min d s.cfg.steps) ∧ t.otherOut = false ∧
      t.phase = !s.phase := by
    intro k t hk
    have hlt : k < s.cfg.steps := hl ▸ (List.getElem?_eq_some_iff.1 hk).1
    have hsum : s.pwmCounter + (k + 1) = s.cfg.steps + k := by omega
    obtain ⟨hsel, hother⟩ := hrun.outputs_at hk
    refine ⟨?_, hother, ?_⟩
    · rw [hsel, hduty t (List.mem_of_getElem? hk), counterAfter, hsum, Nat.add_mod_left, Nat.mod_eq_of_lt hlt]
      simp [hlt]
    · rw [(hrun.onSchedule hk).phase, phaseAfter, hsum, Nat.add_div_left _ hpos, Nat.div_eq_of_lt hlt]
      simp
  have hmap : ts.map State.selectedOut = List.replicate (min d s.cfg.steps) true ++
      List.replicate (s.cfg.steps - min d s.cfg.steps) false := by
    refine eq_replicate_append (by simp [hl]) fun k b hb => ?_
    rw [List.getElem?_map, Option.map_eq_some_iff] at hb
    obtain ⟨t, hk, rfl⟩ := hb
    exact (hat k t hk).1
  refine ⟨hmap, fun t hmem => ?_, ?_⟩
  · obtain ⟨k, hk⟩ := List.mem_iff_getElem?.1 hmem
    exact (hat k t hk).2
  · have hd : 1 ≤ d := by
      have h0 : ts[0]? = some (ts[0]'(by omega)) := List.getElem?_eq_getElem _
      rw [← hduty _ (List.mem_of_getElem? h0)]
      exact (inRange_iff.1 (hrun.onSchedule h0).ready.in_range).2.1
    rw [hmap]
    simp [List.count_replicate]
    omega

/-! ## The first half-period after reset -/

theorem counterAfter_zero {c : Cfg} {k : Nat} (hk : k < c.steps) : counterAfter c 0 k = k := by
  rw [counterAfter, Nat.zero_add, Nat.mod_eq_of_lt hk]

theorem phaseAfter_zero {c : Cfg} {k : Nat} (hk : k < c.steps) : phaseAfter c 0 false k = false := by
  simp [phaseAfter, Nat.div_eq_of_lt hk]

/-- Before the first wrap the counter goes with the ticks, `phase` stays false, and A shows the compare. -/
theorem Run.before_wrap {c : Cfg} {answers : List (Bool × Nat)} {ts : List State}
    (h : Run (State.resetWith c) answers ts) {k : Nat} {t : State} (hk : k + 1 < c.steps) (ht : ts[k]? = some t) :
    t.outA = decide (k + 1 < t.pwmDuty) ∧ t.outB = false ∧ t.phase = false ∧ ∀ p, Event.phaseToggle p ∉ t.events := by
  have hphase : t.phase = false := (h.onSchedule ht).phase.trans (phaseAfter_zero hk)
  have hcounter : counterAfter c 0 (k + 1) = k + 1 := counterAfter_zero hk
  obtain ⟨hsel, hother⟩ := h.outputs_at ht
  obtain ⟨u, busy, raw, d, -, hs, -, -, rfl⟩ := h.tick_at ht
  refine ⟨?_, by simpa [State.otherOut, hphase] using hother, hphase, fun p hp => ?_⟩
  · rw [State.selectedOut, hphase] at hsel
    exact hcounter ▸ hsel
  · have hu : u.pwmCounter = k := hs.counter.trans (counterAfter_zero (c := c) (Nat.lt_of_succ_lt hk))
    have hwrap : u.pwmCounter + 1 = u.cfg.steps := (phaseToggle_mem_tickEvents.1 hp).1
    rw [hu, hs.cfg] at hwrap
    exact hk.ne hwrap

/-- The first wrap after reset inverts `phase` and drives B, for the first time. -/
theorem Run.at_wrap {c : Cfg} {answers : List (Bool × Nat)} {ts : List State} (h : Run (State.resetWith c) answers ts)
    {k : Nat} {t : State} (hk : k + 1 = c.steps) (ht : ts[k]? = some t) :
    t.phase = true ∧ t.pwmCounter = 0 ∧ t.outA = false ∧ t.outB = true ∧ Event.phaseToggle true ∈ t.events := by
  have hsched := h.onSchedule ht
  have hduty : 1 ≤ t.pwmDuty := (inRange_iff.1 hsched.ready.in_range).2.1
  have hpos : 0 < c.steps := by omega
  have hphase : t.phase = true :=
    hsched.phase.trans (by simp [phaseAfter, State.resetWith, hk, Nat.div_self hpos])
  have hcounter : t.pwmCounter = 0 := hsched.counter.trans (by simp [counterAfter, State.resetWith, hk])
  obtain ⟨hsel, hother⟩ := h.outputs_at ht
  obtain ⟨u, busy, raw, d, -, hs, -, -, rfl⟩ := h.tick_at ht
  refine ⟨hphase, hcounter, by simpa [State.otherOut, hphase] using hother, ?_, ?_⟩
  · rw [← hsched.counter, hcounter, State.selectedOut, hphase] at hsel
    exact hsel.trans (decide_eq_true hduty)
  · have hlt : k < c.steps := by omega
    have hu : u.pwmCounter = k := hs.counter.trans (counterAfter_zero hlt)
    have hph : u.phase = false := hs.phase.trans (phaseAfter_zero hlt)
    exact phaseToggle_mem_tickEvents.2 ⟨by rw [hu, hs.cfg]; exact hk, by rw [hph]; rfl⟩

/-- Settles O44: the first `STEPS - 1` ticks come before the first wrap, and the next one wraps. -/
theorem firstHalfPeriodIsShort : Obligations.FirstHalfPeriodIsShort := by
  intro c answers ts d hw hlen ht hduty
  have hrun := (run_iff_ticks (ready_resetWith hw)).2 ht
  have hl : ts.length = c.steps := hrun.length_eq.trans hlen
  have hpos : 0 < c.steps := Cfg.steps_pos hw
  have hat : ∀ k t, (ts.take (c.steps - 1))[k]? = some t → k + 1 < c.steps ∧ ts[k]? = some t := by
    intro k t hk
    rw [List.getElem?_take] at hk
    split at hk
    · exact ⟨by omega, hk⟩
    · cases hk
  refine ⟨eq_replicate_append (by simp [hl]; omega) fun k b hb => ?_, fun t hmem => ?_, ?_⟩
  · rw [List.getElem?_map, Option.map_eq_some_iff] at hb
    obtain ⟨t, hk, rfl⟩ := hb
    obtain ⟨hlt, hk'⟩ := hat k t hk
    rw [(hrun.before_wrap hlt hk').1, hduty t (List.mem_of_getElem? hk), decide_eq_decide]
    omega
  · obtain ⟨k, hk⟩ := List.mem_iff_getElem?.1 hmem
    obtain ⟨hlt, hk'⟩ := hat k t hk
    exact (hrun.before_wrap hlt hk').2
  · have hlast := List.getElem?_eq_getElem (l := ts) (i := c.steps - 1) (by omega)
    exact ⟨_, hlast, hrun.at_wrap (by omega) hlast⟩

end Sys2Proof.Machine
end

section
/-! Proofs of the statements on how long a conversion takes (spec/41_sampling_state_machine.md R75, R77,
60_exceptions.md R106). -/

namespace Sys2Proof.Machine

/-! ## Busy answers -/

theorem polls_of_converting {s : State} (h : s.adcState = .converting) : polls s = true := by simp [polls, h]

/-- A tick that polls and is answered busy ends Converting, with the duty as it was. -/
theorem tickResult_waits {s : State} (hp : polls s = true) {raw d : Nat} (hd : dutyInTick s true raw d) :
    (tickResult s true raw d).adcState = .converting ∧ (tickResult s true raw d).pwmDuty = s.pwmDuty :=
  ⟨by simp [tickResult, completes_busy, hp], (dutyInTick_of_not_completes (completes_busy s) raw d).1 hd⟩

/-- A run that polls in its first tick and is only answered busy is Converting after every tick, with the duty as it was
(41_sampling_state_machine.md R75). -/
theorem Run.waits {s : State} {answers : List (Bool × Nat)} {ts : List State} (h : Run s answers ts) :
    polls s = true → (∀ a ∈ answers, a.1 = true) → ∀ u ∈ ts, u.adcState = .converting ∧ u.pwmDuty = s.pwmDuty := by
  induction h with
  | nil => exact fun _ _ _ hu => absurd hu List.not_mem_nil
  | @cons s busy raw d rest ts h hd _ ih =>
    intro hp hbusy u hu
    obtain rfl : busy = true := hbusy _ (List.mem_cons_self ..)
    obtain ⟨hconv, hduty⟩ := tickResult_waits hp hd
    rcases List.mem_cons.1 hu with rfl | hu
    · exact ⟨hconv, hduty⟩
    · obtain ⟨huconv, huduty⟩ :=
        ih (polls_of_converting hconv) (fun a ha => hbusy a (List.mem_cons_of_mem _ ha)) u hu
      exact ⟨huconv, huduty.trans hduty⟩

/-- Such a run still polls in the tick that follows it. -/
theorem Run.polls_last {s : State} {answers : List (Bool × Nat)} {ts : List State} (h : Run s answers ts)
    (hp : polls s = true) (hbusy : ∀ a ∈ answers, a.1 = true) : polls (ts.getLast?.getD s) = true := by
  cases hl : ts.getLast? with
  | none => exact hp
  | some u => exact polls_of_converting (h.waits hp hbusy u (List.mem_of_getLast? hl)).1

/-- The ADC is polled once by a tick that polls. -/
theorem count_adcPoll_tickEvents {s : State} (hp : polls s = true) (busy : Bool) (raw d : Nat) :
    (tickEvents s busy raw d).count (.adcPoll busy) = 1 := by
  simp [tickEvents, List.count_append, apply_ite (List.count (Event.adcPoll busy)), hp]

/-- Settles O45: every tick begins Converting and is answered busy. -/
theorem stalledAdcFreezesDuty : Obligations.StalledAdcFreezesDuty := by
  intro s answers h hconv hbusy
  obtain ⟨ts, hrun⟩ := exists_run h fun a ha => .inl (hbusy a ha)
  refine ⟨ts, (run_iff_ticks h).1 hrun, hrun.length_eq, fun k t ht => ?_⟩
  have hwaits := hrun.waits (polls_of_converting hconv) hbusy
  obtain ⟨htconv, htduty⟩ := hwaits t (List.mem_of_getElem? ht)
  obtain ⟨-, -, hcounter, hphase⟩ := hrun.onSchedule ht
  obtain ⟨hsel, hother⟩ := hrun.outputs_at ht
  rw [← hcounter, htduty] at hsel
  obtain ⟨u, busy, raw, d, hu, -, ha, -, rfl⟩ := hrun.tick_at ht
  obtain rfl : busy = true := hbusy _ (List.mem_of_getElem? ha)
  have huconv : u.adcState = .converting := by
    rcases List.mem_cons.1 hu with rfl | hu
    · exact hconv
    · exact (hwaits u hu).1
  have hstart : Event.adcStart ∉ tickEvents u true raw d := by
    rw [← List.count_eq_zero, count_adcStart_tickEvents]
    simp [huconv]
  exact ⟨htconv, htduty, hstart, count_adcPoll_tickEvents (polls_of_converting huconv) true raw d, hcounter, hphase,
    hsel, hother⟩

/-! ## Completion -/

/-- A tick that polls and is answered not busy ends Idle, with the ROM's entry as the duty and its event in the list. -/
theorem tickResult_completes {s : State} (hp : polls s = true) {raw d : Nat} (hd : dutyInTick s false raw d) :
    (tickResult s false raw d).adcState = .idle ∧ s.cfg.gamma[raw >>> s.cfg.shift]? = some d ∧
      Event.adcDone raw (raw >>> s.cfg.shift) d ∈ (tickResult s false raw d).events := by
  have hc : completes s false = true := by simp [completes, hp]
  refine ⟨by simp [tickResult, hc], ?_, by simp [tickResult, tickEvents, hc]⟩
  rw [dutyInTick, if_pos hc] at hd
  exact hd.2

/-- How many conversions the tick that begins in `s` starts. -/
def startsIn (s : State) : Nat := if s.pwmCounter = 0 ∧ s.adcState = .idle then 1 else 0

theorem count_adcStart_tickResult (s : State) (busy : Bool) (raw d : Nat) :
    (tickResult s busy raw d).events.count .adcStart = startsIn s := count_adcStart_tickEvents s busy raw d

/-- A run that polls in its first tick and is only answered busy, with the tick after it, starts as many conversions as
its first tick. -/
theorem Run.count_adcStart_waits {s : State} {answers : List (Bool × Nat)} {ts : List State} (h : Run s answers ts) :
    polls s = true → (∀ a ∈ answers, a.1 = true) →
      (eventsOf ts).count .adcStart + startsIn (ts.getLast?.getD s) = startsIn s := by
  induction h with
  | nil => exact fun _ _ => Nat.zero_add _
  | @cons s busy raw d rest ts h hd _ ih =>
    intro hp hbusy
    obtain rfl : busy = true := hbusy _ (List.mem_cons_self ..)
    have hconv := (tickResult_waits hp hd).1
    have hnone : startsIn (tickResult s true raw d) = 0 := by simp [startsIn, hconv]
    rw [count_eventsOf_cons, getLast?_getD_cons, Nat.add_assoc, count_adcStart_tickResult,
      ih (polls_of_converting hconv) fun a ha => hbusy a (List.mem_cons_of_mem _ ha), hnone, Nat.add_zero]

theorem eventsOf_nil : eventsOf [] = [] := rfl

theorem eventsOf_append (ts us : List State) : eventsOf (ts ++ us) = eventsOf ts ++ eventsOf us := by
  simp [eventsOf]

/-- Settles O47: the busy answers make a run that waits; the tick after it polls, is answered not busy, and
completes. -/
theorem conversionTakesItsPolls : Obligations.ConversionTakesItsPolls := by
  intro s waits raw h h0 hidle hbusy hraw
  have hp : polls s = true := by simp [polls, h0]
  obtain ⟨ts', hrun⟩ := exists_run (answers := waits ++ [(false, raw)]) h fun a ha => by
    rcases List.mem_append.1 ha with ha | ha
    · exact .inl (hbusy a ha)
    · rw [List.mem_singleton.1 ha]; exact .inr hraw
  obtain ⟨ts, vs, rfl, hts, hvs⟩ := hrun.split
  have hsched := hts.onSchedule_last
  have hplast := hts.polls_last hp hbusy
  have hstarts := hts.count_adcStart_waits hp hbusy
  obtain _ | ⟨hlast, hd, ⟨-⟩⟩ := hvs
  obtain ⟨hend, hentry, -⟩ := tickResult_completes hplast hd
  rw [hsched.cfg] at hentry
  refine ⟨ts, _, (run_iff_ticks h).1 hrun, hts.length_eq, hts.waits hp hbusy, hend, hentry, ?_, ?_⟩
  · rw [hsched.counter, counterAfter, h0, Nat.zero_add]
  · have hone : startsIn s = 1 := by simp [startsIn, h0, hidle]
    rw [eventsOf_append, List.count_append, count_eventsOf_cons, count_adcStart_tickResult, eventsOf_nil,
      List.count_nil, Nat.add_zero, hstarts, hone]

/-- Under the premise an answer that is not busy comes within `k + 1` answers, after busy ones only. -/
theorem exists_not_busy {answers : List (Bool × Nat)} {k : Nat} (h : completesWithin k answers)
    (hlen : k + 1 ≤ answers.length) :
    ∃ (waits : List (Bool × Nat)) (raw : Nat) (rest : List (Bool × Nat)),
      answers = waits ++ (false, raw) :: rest ∧ (∀ a ∈ waits, a.1 = true) ∧ waits.length ≤ k := by
  have hbusy : ∀ a ∈ answers.takeWhile Prod.fst, a.1 = true := fun a ha => List.mem_takeWhile_imp ha
  have hk : (answers.takeWhile Prod.fst).length ≤ k :=
    h [] _ (answers.dropWhile Prod.fst) (by rw [List.nil_append, List.takeWhile_append_dropWhile]) hbusy
  have happ : answers.takeWhile Prod.fst ++ answers.dropWhile Prod.fst = answers := List.takeWhile_append_dropWhile
  cases hd : answers.dropWhile Prod.fst with
  | nil =>
    rw [hd, List.append_nil] at happ
    rw [happ] at hk
    omega
  | cons a rest =>
    obtain ⟨busy, raw⟩ := a
    have hnot : busy = false := by
      simpa [hd] using List.head_dropWhile_not Prod.fst (l := answers)
    subst hnot
    exact ⟨_, raw, rest, by rw [← hd, happ], hbusy, hk⟩

/-- Settles O48: within `k + 1` answers one is not busy, and the tick that takes the first such answer completes. -/
theorem completesUnderPremise : Obligations.CompletesUnderPremise := by
  intro s answers k h hconv hok hpremise hlen
  obtain ⟨waits, raw, rest, rfl, hbusy, hk⟩ := exists_not_busy hpremise hlen
  obtain ⟨ts, hrun⟩ := exists_run h fun a ha => .inr (hok a ha)
  obtain ⟨us, vs, rfl, hus, hvs⟩ := hrun.split
  have hp := hus.polls_last (polls_of_converting hconv) hbusy
  obtain _ | ⟨-, hd, -⟩ := hvs
  obtain ⟨hidle, -, hdone⟩ := tickResult_completes hp hd
  refine ⟨_, us.length, _, (run_iff_ticks h).1 hrun, hus.length_eq.trans_le hk, ?_, hidle, _, _, hdone⟩
  simp

end Sys2Proof.Machine
end
